-- ==== Sys2Proof/Word.lean ====
section
/-! DEFINITION. The words the CA-1612 moves: bytes, 16-bit fields and 24-bit frames. Their use is in the files that name
them; samples, gains and counts are integers (00_scope.md, CONVENTIONS). -/

namespace Sys2Proof

/-- One byte of a lane, a block or an image. -/
abbrev Byte := BitVec 8

/-- A two-byte field; sequence numbers wrap modulo 65536 (R2, R6). -/
abbrev Half := BitVec 16

/-- A three-byte field: the frame of a carried position (R183). -/
abbrev Frame := BitVec 24

end Sys2Proof
end

