-- ==== Sys2Proof/Config.lean ====
section
/-! DEFINITION. The fixed figures of the CA-1612, each named by the rule that gives it, and the one free value the spec
leaves open. -/

namespace Sys2Proof.Config

/-- The byte that lies at a place of a page whose write was cut by a reset. R63: such a page 'holds undefined bytes'.
A FREE VALUE: no body, numbered by `State.freeCount` (log 8). -/
opaque cutByte : Nat → Byte

/-- Unity of every linear gain (00_scope.md, Samples and gains). -/
def unity : Nat := 32768
/-- The length of the integrity window (R10). -/
def windowPeriods : Nat := 1200
/-- Consecutive bad blocks that lose the lock (R8, R12). -/
def badRunLimit : Nat := 8
/-- Good blocks in sequence that complete the lock (R5). -/
def confirmGoal : Nat := 3
/-- The dropout limit in block periods (R17). -/
def dropoutLimit : Nat := 1200
/-- Boundaries of the mute ramp and of a fade-in (R59, R82). -/
def swapBlocks : Nat := 12
/-- ACTIVE steps between two escalations (R112). -/
def escalateSteps : Nat := 256
/-- CLEAR steps between two recoveries (R113). -/
def recoverSteps : Nat := 2400
/-- Places of the alarm list (R123). -/
def alarmPlaces : Nat := 64
/-- Records of the cue pool (R137). -/
def poolSize : Nat := 1024
/-- Cues a screen's list may hold (R137). -/
def listCap : Nat := 256
/-- The insertion counter's last value (R138). -/
def counterEnd : Nat := 4294967295
/-- Places of the mark notice queue (R160). -/
def markPlaces : Nat := 16
/-- Places of the STORE notice queue (R71). -/
def noticePlaces : Nat := 4
/-- Places of the reply queue (R176). -/
def replyPlaces : Nat := 8
/-- Bytes of the staging buffer (R64). -/
def stagingSize : Nat := 4096
/-- Bytes of a page (R62). -/
def pageSize : Nat := 256
/-- Bytes of a lane (R173, R182). -/
def laneSize : Nat := 32
/-- Entries of a sense history ring (R92). -/
def ringSize : Nat := 16
/-- Samples of a delay line (R49). -/
def delaySize : Nat := 2048
/-- Sample periods of a block (00_scope.md, Time). -/
def blockSamples : Nat := 40

end Sys2Proof.Config
end

