-- ==== Sys2Proof/Syntax.lean ====
section
/-! DEFINITION. The commands of the CA-1612: one constructor of `Instr` per row of spec/opcode_table.json, with the
operands the row's rule gives it. A screen, feed, slot or line that an EVENT names exists, so it is a `Fin`, counted from
0 (screen 1 is 0); a field that a REQUEST carries is the raw field, so that the request's own checks may refuse it. -/

namespace Sys2Proof

/-- The two trunk inputs with a lock machine (R4, R12). -/
inductive Port where
  | program
  | sense
deriving DecidableEq, Repr

/-- The 626 alarm sources (R96, R124); `overload` is the kind OVER. -/
inductive SourceId where
  | trunk
  | senselink
  | track (screen : Fin 12)
  | dropout (screen : Fin 12)
  | preset (screen : Fin 12)
  | cue (screen : Fin 12)
  | overload (screen : Fin 12) (feed : Fin 16)
  | silent (screen : Fin 12) (feed : Fin 16)
  | mismatch (screen : Fin 12) (feed : Fin 16)
deriving DecidableEq, Repr

/-- The cells a read of the slot array delivered otherwise than stored: place within the unit's extent, and the byte
delivered. Empty for a sound read (log 6). -/
abbrev Upset := List (Nat × Byte)

/-- The commands. Every request row begins with its tag and its screen field as the message header carries them (R187). -/
inductive Instr where
  -- reset and time
  | reset
  | blockPeriod
  -- the trunk: a block as its bytes arrive, and whether its sync stands where the lock state looks for it (log 15)
  | programBlock (atDue : Bool) (bytes : List Byte)
  | lostBlock
  | integrityWindowEnd
  | dropoutLimit (screen : Fin 12)
  -- alarm events
  | alarmRaised (src : SourceId)
  | alarmCleared (src : SourceId)
  | protectEscalation (screen : Fin 12) (feed : Fin 16)
  | protectRecovery (screen : Fin 12) (feed : Fin 16)
  | senseBlock (atDue : Bool) (bytes : List Byte)
  | lostSenseBlock
  -- ends of store units and the swap
  | scanPageRead (upset : Upset)
  | presetLoadEnd (upset : Upset)
  | liveSetReplacement (screen : Fin 12)
  | swapEnd (screen : Fin 12)
  | formatRefreshEnd (upset : Upset)
  | pageWriteEnd
  | pageVerifyEnd (upset : Upset)
  | erasePageWriteEnd
  | fetchComplete (upset : Upset)
  -- line timers
  | stretchExpiry (line : Fin 24)
  | pulseExpiry (line : Fin 24)
  | blinkPhaseChange (line : Fin 24)
  -- control lane
  | holdBufferTake
  | unknownKind (kind tag screen : Byte) (body : List Byte)
  | status (tag screen : Byte)
  | slotInfo (tag screen : Byte) (refKind refNum : Byte)
  | stageClear (tag screen : Byte)
  | stageWrite (tag screen : Byte) (offset : Half) (data : List Byte)
  | stageRead (tag screen : Byte) (offset length : Half)
  | stageFetch (tag screen : Byte) (refKind refNum : Byte) (offset : Half)
  | commit (tag screen : Byte) (refKind refNum : Byte)
  | commitAbandon (tag screen : Byte)
  | slotErase (tag screen : Byte) (refKind refNum : Byte)
  | presetSelect (tag screen : Byte) (slot : Byte)
  | formatOverride (tag screen : Byte) (format : Byte)
  | screenMute (tag screen : Byte) (value : Byte)
  | masterSet (tag screen : Byte) (target duration : Half)
  | cueInsert (tag screen : Byte) (id : Half) (frame : Frame) (block flags action : Byte) (paramA paramB : Half)
  | cueDelete (tag screen : Byte) (id : Half)
  | cueClear (tag screen : Byte)
  | cueTagRange (tag screen : Byte) (fromFrame : Frame) (fromBlock : Byte) (toFrame : Frame) (toBlock : Byte)
  | cueUntag (tag screen : Byte) (id : Half)
  | cueDeleteTagged (tag screen : Byte)
  | cueListRead (tag screen : Byte) (start : Byte)
  | lineConfig (tag screen : Byte) (line owner source forced polarity stretch blink : Byte)
  | lineDrive (tag screen : Byte) (line action : Byte) (duration : Half)
  | meterRead (tag screen : Byte)
  | alarmRead (tag screen : Byte)
  | alarmAcknowledge (tag screen : Byte)
  | feedRestore (tag screen : Byte) (feed : Byte)
  | protectReset (tag screen : Byte)
  | lockSet (tag screen : Byte)
  | lockClear (tag screen : Byte)
  | screenRestart (tag screen : Byte)
  | confirmDuePointMissed (port : Port)
  | lockInputChange (asserted : Bool)
deriving DecidableEq, Repr

end Sys2Proof
end

