-- ==== Sys2Proof/WellFormed.lean ====
section
/-! DEFINITION. Which command terms stand for something that can reach the part. `exec` is total and does not ask for
well-formedness: a term that is not well formed gets the meaning its bytes would have (log 16, log 17). -/

namespace Sys2Proof

/-- The request kinds of R187 are 01h to 1Eh. -/
def requestKind (k : Byte) : Bool := decide (1 ≤ k.toNat ∧ k.toNat ≤ 30)

/-- The longest program block of R186: 104 bytes, 32 lane bytes, 96 tracks of 120 bytes and the check. -/
def programBlockMax : Nat := 104 + 32 + 120 * 96 + 2

/-- Every cell of an upset lies within an extent of the given size. -/
def upsetWithin (size : Nat) (u : Upset) : Bool := u.all fun c => decide (c.1 < size)

/-- A well-formed command: blocks no longer than R186 lets them be, message bodies no longer than R187 lets them be,
upsets inside the extent their unit reads (R62, R75), and UNKNOWN_KIND with a kind that is unknown (R177). -/
def Instr.wf : Instr → Bool
  | .programBlock _ bytes => decide (bytes.length ≤ programBlockMax)
  | .senseBlock _ bytes => decide (bytes.length ≤ 584)
  | .scanPageRead u => upsetWithin 256 u
  | .presetLoadEnd u => upsetWithin 3072 u
  | .formatRefreshEnd u => upsetWithin 512 u
  | .pageVerifyEnd u => upsetWithin 256 u
  | .fetchComplete u => upsetWithin 2944 u
  | .unknownKind kind _ _ body => !requestKind kind && decide (body.length ≤ 240)
  | .stageWrite _ _ _ data => decide (data.length ≤ 232)
  | .reset | .blockPeriod | .lostBlock | .integrityWindowEnd | .dropoutLimit _ => true
  | .alarmRaised _ | .alarmCleared _ | .protectEscalation _ _ | .protectRecovery _ _ => true
  | .lostSenseBlock | .liveSetReplacement _ | .swapEnd _ | .pageWriteEnd | .erasePageWriteEnd => true
  | .stretchExpiry _ | .pulseExpiry _ | .blinkPhaseChange _ | .holdBufferTake => true
  | .status _ _ | .slotInfo _ _ _ _ | .stageClear _ _ | .stageRead _ _ _ _ | .stageFetch _ _ _ _ _ => true
  | .commit _ _ _ _ | .commitAbandon _ _ | .slotErase _ _ _ _ | .presetSelect _ _ _ => true
  | .formatOverride _ _ _ | .screenMute _ _ _ | .masterSet _ _ _ _ => true
  | .cueInsert _ _ _ _ _ _ _ _ _ | .cueDelete _ _ _ | .cueClear _ _ | .cueTagRange _ _ _ _ _ _ => true
  | .cueUntag _ _ _ | .cueDeleteTagged _ _ | .cueListRead _ _ _ => true
  | .lineConfig _ _ _ _ _ _ _ _ _ | .lineDrive _ _ _ _ _ | .meterRead _ _ | .alarmRead _ _ => true
  | .alarmAcknowledge _ _ | .feedRestore _ _ _ | .protectReset _ _ | .lockSet _ _ | .lockClear _ _ => true
  | .screenRestart _ _ | .confirmDuePointMissed _ | .lockInputChange _ => true

end Sys2Proof
end

