-- ==== Sys2Proof/Decode.lean ====
section
/-! DEFINITION. The reading of a command from a word of spec/opcode_table.json. The table gives bits to none of its 58
rows, so no word spells a command (log 18). The byte layouts of R186 and R187, by which a PORT carries blocks and
messages, are in Machine/Bytes.lean and Machine/Operands.lean. -/

namespace Sys2Proof

/-- No row of the table has bits: no word spells a command. -/
def decodeTableWord (_nbits _w : Nat) : Option Instr := none

end Sys2Proof
end

