-- ==== Sys2Proof/Machine/State.lean ====
section
/-! DEFINITION. The state of the CA-1612 as plain data, every piece the spec names, and the state right after reset. The
list of INVENTORY.md names for each field its rule and its reset value. -/

namespace Sys2Proof.Machine

/-- Why a command could stop with a fault. The part has no fault: requests out of range are answered (R178) and bad
blocks are counted (R8), so this type has no constructor and no command faults (log 25). Safe. -/
inductive Fault where
deriving DecidableEq, Repr

/-- Why a command could have no meaning. -/
inductive Refusal where
  /-- A row of the opcode table whose meaning is not written; raised by `exec`'s arm of that row only, and by no arm at
  present. Safe. -/
  | notModelled (mnemonic : String)
deriving DecidableEq, Repr

/-! ## Trunk receiver and program tracker (chapter 1) -/

/-- The device state (R86). -/
inductive Device where
  | starting
  | running
deriving DecidableEq, Repr

/-- The lock states of a port (R4 to R8, R12). -/
inductive Lock where
  | seek
  | confirm
  | locked
deriving DecidableEq, Repr

/-- The lock machine of a port (R4, R12). -/
structure LockMachine where
  state : Lock
  lastGood : Option Half
  confirmCount : Nat
  confirmSeq : Half
  badRun : Nat
deriving DecidableEq, Repr

/-- A position of the film, frame:block (00_scope.md, Positions in the film). -/
structure Position where
  frame : Nat
  block : Nat
deriving DecidableEq, Repr

/-- The program states (R15). -/
inductive ProgramState where
  | absent
  | stopped
  | paused
  | playing
  | dropout
deriving DecidableEq, Repr

/-- The program tracker's record of a screen (R15). -/
structure Tracker where
  state : ProgramState
  code : Fin 16
  mask : Byte
  rate : Option (Fin 4)
  lastPos : Option Position
  dropouts : Nat
deriving DecidableEq, Repr

/-- The audio handed to the decode engine for the period in progress (R18): the tracker's format code, the track-present
mask and eight tracks of forty samples, with the override that is in force for this block (R27, R37; log 4). -/
structure Handed where
  code : Fin 16
  override : Option (Fin 16)
  mask : Byte
  tracks : List (List Int)
deriving DecidableEq, Repr

/-! ## Decode engine (chapter 2) -/

/-- The decode fields of a format (R22). -/
structure Format where
  trackCount : Nat
  required : Byte
  rows : List (List Int)
  foldGain : Nat
  partners : List (Option (Fin 16))
deriving DecidableEq, Repr

/-- The fold state of a feed (R36). -/
inductive FoldState where
  | none
  | folded
  | dropped
deriving DecidableEq, Repr

/-! ## Feed chain and live sets (chapters 3 and 4) -/

/-- The four states of a biquad section (R47). -/
structure Biquad where
  x1 : Int
  x2 : Int
  y1 : Int
  y2 : Int
deriving DecidableEq, Repr

/-- The coefficients of a biquad section, units of 2^-22 (R46). -/
structure Coeffs where
  b0 : Int
  b1 : Int
  b2 : Int
  a1 : Int
  a2 : Int
deriving DecidableEq, Repr

/-- A sample with its clip mark (R40, R49). -/
structure Sample where
  value : Int
  clip : Bool
deriving DecidableEq, Repr

/-- A ramp: current value, begin value, target and remaining count (R53). -/
structure Ramp where
  current : Nat
  start : Nat
  target : Nat
  remaining : Nat
deriving DecidableEq, Repr

/-- A feed record of a room preset (R76, R188). -/
structure FeedSet where
  trim : Nat
  delay : Nat
  sectionCount : Nat
  sections : List Coeffs
  protect : Bool
  fold : Bool
  notify : Bool
  overOnset : Nat
  overRelease : Nat
  overHold : Nat
  overReleaseTime : Nat
  silence : Nat
  silenceHold : Nat
  senseFloor : Nat
  tolerance : Nat
  mismatchHold : Nat
  mismatchRelease : Nat
deriving DecidableEq, Repr

/-- The working copy of a room preset (R76). -/
structure RoomSet where
  senseLag : Nat
  enable : Half
  feeds : Vector FeedSet 16
deriving DecidableEq, Repr

/-- What a preset operation loads, and where a live set comes from (R76, R79). -/
inductive PresetRef where
  | slot (n : Fin 4)
  | safe
deriving DecidableEq, Repr

/-- The swap phase (R76). -/
inductive Phase where
  | none
  | fadingOut
  | fadingIn
deriving DecidableEq, Repr

/-- The stages of a running preset operation (R79). -/
inductive Stage where
  | loadWait
  | loading
  | fadingOut
  | fadingIn
deriving DecidableEq, Repr

/-- A running preset operation (R79). -/
structure Operation where
  ref : PresetRef
  stage : Stage
deriving DecidableEq, Repr

/-- The load buffer of a screen (R80). -/
structure LoadBuffer where
  room : RoomSet
  source : PresetRef
deriving DecidableEq, Repr

/-! ## Table store (chapter 4) -/

/-- A slot of the table store: a room slot of a screen, or the slot of format code f + 1 (R62). -/
inductive SlotId where
  | room (screen : Fin 12) (n : Fin 4)
  | format (f : Fin 15)
deriving DecidableEq, Repr

/-- The states of a slot record (R62). -/
inductive SlotState where
  | empty
  | valid
  | invalid
  | writing
deriving DecidableEq, Repr

/-- The slot mark, kept in the non-volatile array (R63). -/
inductive Mark where
  | blank
  | opened
  | closed
deriving DecidableEq, Repr

/-- A slot's record (R62) and its mark (R63). -/
structure Slot where
  state : SlotState
  boot : Bool
  label : List Byte
  mark : Mark
deriving DecidableEq, Repr

/-- An addressed store in canonical form: cells by rising address, none equal to what an unlisted address reads as. -/
abbrev Memory := List Host.Cell

/-- The states of the commit record (R68). -/
inductive CommitState where
  | idle
  | waiting
  | writing
  | verifying
deriving DecidableEq, Repr

/-- The results of a commit (R68, R69); NONE after reset. -/
inductive CommitResult where
  | none
  | ok
  | verifyFail
  | abandoned
deriving DecidableEq, Repr

/-- The commit record (R66, R68); `abandon` is set while an abandon waits for the unit in progress (R70). -/
structure Commit where
  state : CommitState
  target : SlotId
  previous : SlotState
  written : Nat
  next : Nat
  abandon : Bool
  last : CommitResult
deriving DecidableEq, Repr

/-- A STORE notice (R71). -/
structure StoreNotice where
  slot : SlotId
  result : CommitResult
deriving DecidableEq, Repr

/-- The store work of the control lane engine (R74): a fetch to a buffer offset, or an erase with its next page. -/
inductive EngineWork where
  | fetch (slot : SlotId) (offset : Nat)
  | erase (slot : SlotId) (page : Nat)
deriving DecidableEq, Repr

/-- The kinds of unit that hold the store port (R75). -/
inductive PortWork where
  | scan
  | load (screen : Fin 12)
  | refresh (f : Fin 15)
  | engine
  | commitWrite
  | commitVerify
deriving DecidableEq, Repr

/-- The unit in progress and the block periods that have opened with it at the port (R75, log 5). -/
structure PortUnit where
  work : PortWork
  age : Nat
deriving DecidableEq, Repr

/-- The start-up scan: place in the scan order and page (R87). -/
structure Scan where
  place : Fin 63
  page : Nat
deriving DecidableEq, Repr

/-! ## Meter and alarm monitor (chapters 5 and 6), alarm queue (chapter 7) -/

/-- The states of an alarm source (R97). -/
inductive SourceState where
  | clear
  | onset
  | active
  | release
deriving DecidableEq, Repr

/-- An alarm source (R97, R99) with its unreported flag and count (R124). -/
structure Source where
  state : SourceState
  count : Nat
  latched : Bool
  unreported : Bool
  unreportedCount : Nat
deriving DecidableEq, Repr

/-- A feed's protect record (R110). -/
structure Protect where
  step : Nat
  escalation : Nat
  recovery : Nat
deriving DecidableEq, Repr

/-- A feed's meter record (R89). -/
structure Meter where
  peak : Nat
  hold : Nat
  level : Nat
  code : Nat
  lastSense : Nat
  clips : Nat
  ring : List (Half × Nat)
deriving DecidableEq, Repr

/-- An alarm record (R123); its source gives scope, screen, feed and kind. -/
structure AlarmRecord where
  src : SourceId
  raised : Bool
  transitions : Nat
  seq : Half
  value : Option Nat
deriving DecidableEq, Repr

/-- Everything one feed of a screen holds; `senseFault` is the model's, the fault flag of the feed's last sense report (R94,
log 20). -/
structure Feed where
  folded : Bool
  fold : FoldState
  row : List Int
  biquads : List Biquad
  delay : List Sample
  out : List Int
  meter : Meter
  senseFault : Bool
  protect : Protect
  overload : Source
  silent : Source
  mismatch : Source
deriving DecidableEq, Repr

/-! ## Cue lists and cue engines (chapters 8 and 9) -/

/-- The actions of a cue with their parameters (R135). -/
inductive CueAction where
  | lineSet (line : Fin 24) (on : Bool)
  | linePulse (line : Fin 24) (duration : Nat)
  | fade (target duration : Nat)
  | preset (slot : Fin 4)
  | format (code : Option (Fin 16))
  | mute
  | unmute
  | mark (code : Nat)
deriving DecidableEq, Repr

/-- A cue record (R134); `isState` is the class STATE. -/
structure Cue where
  id : Nat
  pos : Position
  isState : Bool
  action : CueAction
  number : Nat
  tagged : Bool
deriving DecidableEq, Repr

/-- A mark notice (R160). -/
structure MarkNotice where
  screen : Fin 12
  cueId : Nat
  code : Nat
  cuePos : Position
  firedPos : Position
deriving DecidableEq, Repr

/-- Everything one screen holds. -/
structure Screen where
  tracker : Tracker
  handed : Handed
  override : Option (Fin 16)
  feeds : Vector Feed 16
  master : Ramp
  mute : Ramp
  muted : Bool
  live : RoomSet
  source : PresetRef
  stale : Bool
  phase : Phase
  running : Option Operation
  waiting : Option PresetRef
  loadBuf : Option LoadBuffer
  fadeIn : Nat
  muteZero : Bool
  showLock : Bool
  cues : List Cue
  counter : Nat
  tracking : Bool
  enginePos : Option Position
  pointer : Nat
  track : Source
  dropout : Source
  preset : Source
  cue : Source
  alarmActive : Bool
  alarmLatched : Bool
deriving DecidableEq, Repr

/-! ## Booth lines (chapter 10) -/

/-- The sources of a line (R165). -/
inductive LineSource where
  | none
  | cue
  | alarmLive
  | alarmLatched
  | trunk
  | forced
deriving DecidableEq, Repr

/-- The blink settings (R165). -/
inductive Blink where
  | steady
  | slow
  | fast
deriving DecidableEq, Repr

/-- A line record (R165). -/
structure Line where
  owner : Option (Fin 12)
  source : LineSource
  forced : Bool
  lowActive : Bool
  stretch : Nat
  blink : Blink
  cueLevel : Bool
  level : Bool
  pulse : Nat
  stretchTimer : Nat
  blinkCount : Nat
deriving DecidableEq, Repr

/-! ## Control lane engine (chapter 11) -/

/-- A complete control message (R173): kind, tag, screen field and body. -/
structure Message where
  kind : Byte
  tag : Byte
  screen : Byte
  body : List Byte
deriving DecidableEq, Repr

/-- The assembly states (R173). -/
inductive AsmState where
  | waitStart
  | header
  | body
  | check
deriving DecidableEq, Repr

/-- The reassembly record (R173). -/
structure Asm where
  state : AsmState
  gathered : List Byte
  expected : Nat
deriving DecidableEq, Repr

/-- The outcomes of a request (R178). -/
inductive Verdict where
  | done
  | accepted
  | busy
  | locked
  | refusedRange
  | refusedState
  | refusedFull
  | refusedExists
  | refusedUnknown
  | badImage
  | badLength
  | unknownKind
  | starting
deriving DecidableEq, Repr

/-- A reply in the reply queue (R178): the request's kind, tag and screen field, its outcome, the TAG-RESET flag, the
result data, and whether it is complete. -/
structure Reply where
  kind : Byte
  tag : Byte
  screen : Byte
  verdict : Verdict
  tagReset : Bool
  data : List Byte
  complete : Bool
deriving DecidableEq, Repr

/-! ## The state -/

/-- The whole part, and the queue of commands that wait (`pending`, log 1). -/
structure State where
  device : Device
  lockInput : Bool
  freeCount : Nat
  pending : List Instr
  -- trunk receiver
  prog : LockMachine
  sense : LockMachine
  lockLost : Bool
  integrityAcc : Nat
  integrityCount : Nat
  windowCount : Nat
  outSeq : Half
  periodOpen : Bool
  periodLocked : Bool
  periodStarting : Bool
  feedOut : List Byte
  returnOut : List Byte
  -- decode engine, screens
  cache : Vector (Option Format) 16
  screens : Vector Screen 12
  -- table store
  slots : Vector Slot 63
  array : Memory
  staging : Memory
  commit : Commit
  storeNotices : List StoreNotice
  port : Option PortUnit
  refreshes : List (Fin 15)
  dropRefresh : Bool
  engineWork : Option EngineWork
  scan : Option Scan
  scanBuf : List Byte
  -- device alarm sources, alarm queue, mark notices
  trunk : Source
  senselink : Source
  alarms : List AlarmRecord
  marks : List MarkNotice
  -- booth lines
  lines : Vector Line 24
  -- control lane engine
  asm : Asm
  held : Option Message
  holdBuf : Option Message
  replies : List Reply
  laneLoss : Bool
  crcReject : Bool
  overrun : Bool
  commitEnded : Bool
  tx : List Byte
deriving DecidableEq, Repr

/-! ## The state after reset -/

/-- A lock machine after reset (R4, R12); the confirm sequence's 0 is log 10. -/
def LockMachine.reset : LockMachine := ⟨.seek, none, 0, 0, 0⟩

/-- A tracker record after reset (R15). -/
def Tracker.reset : Tracker := ⟨.absent, 0, 255, none, none, 0⟩

/-- Eight tracks of forty zero samples (R18). -/
def zeroTracks : List (List Int) := List.replicate 8 (List.replicate Config.blockSamples 0)

/-- What an ABSENT screen hands (R18). -/
def Handed.reset : Handed := ⟨0, none, 255, zeroTracks⟩

/-- The row of feed k in format 0 (R23). -/
def format0Row (k : Nat) : List Int := (List.range 8).map fun t => if t = k then 16384 else 0

/-- Format 0 (R23). -/
def format0 : Format :=
  ⟨8, 1, (List.range 16).map format0Row, 0, List.replicate 16 none⟩

/-- A section with every coefficient 0, the filler of the sections of which R76 gives no coefficients. The 0 is the model's
choice (log 34). -/
def Coeffs.zero : Coeffs := ⟨0, 0, 0, 0, 0⟩

/-- A feed record of the SAFE set (R76). R76's table gives it a section count of 0 and no coefficients, and names no sense
floor; that all ten sections have coefficients of 0 and that the sense floor is 0 is the model's choice (log 34). -/
def FeedSet.safe : FeedSet :=
  ⟨Config.unity, 0, 0, List.replicate 10 Coeffs.zero, false, false, false, 0, 0, 0, 0, 0, 0, 0, 0, 0, 0⟩

/-- The SAFE set (R76). -/
def RoomSet.safe : RoomSet := ⟨0, 65535, Vector.replicate 16 FeedSet.safe⟩

/-- Ten biquad sections at rest (R41). -/
def zeroBiquads : List Biquad := List.replicate 10 ⟨0, 0, 0, 0⟩

/-- A delay line of zeros (R41). -/
def zeroDelay : List Sample := List.replicate Config.delaySize ⟨0, false⟩

/-- An alarm source after reset (R97, R99, R123). -/
def Source.reset : Source := ⟨.clear, 0, false, false, 0⟩

/-- A feed after reset (R38, R41, R89, R97, R110). -/
def Feed.reset (k : Nat) : Feed where
  folded := false
  fold := .none
  row := format0Row k
  biquads := zeroBiquads
  delay := zeroDelay
  out := List.replicate Config.blockSamples 0
  meter := ⟨0, 0, 0, 0, 0, 0, []⟩
  senseFault := false
  protect := ⟨0, 0, 0⟩
  overload := Source.reset
  silent := Source.reset
  mismatch := Source.reset

/-- A screen after reset (R15, R28, R41, R57, R76, R79, R84, R97, R109, R137, R149). -/
def Screen.reset : Screen where
  tracker := Tracker.reset
  handed := Handed.reset
  override := none
  feeds := Vector.ofFn fun k : Fin 16 => Feed.reset k.val
  master := ⟨Config.unity, Config.unity, Config.unity, 0⟩
  mute := ⟨0, 0, 0, 0⟩
  muted := false
  live := RoomSet.safe
  source := .safe
  stale := false
  phase := .none
  running := none
  waiting := none
  loadBuf := none
  fadeIn := 0
  muteZero := false
  showLock := false
  cues := []
  counter := 0
  tracking := false
  enginePos := none
  pointer := 0
  track := Source.reset
  dropout := Source.reset
  preset := Source.reset
  cue := Source.reset
  alarmActive := false
  alarmLatched := false

/-- A line after reset (R165). -/
def Line.reset : Line := ⟨none, .none, false, false, 0, .steady, false, false, 0, 0, 0⟩

/-- The number of label bytes of the slot at an index: 32 for the 48 room slots, 16 for the format slots (R62). -/
def labelSize (i : Nat) : Nat := if i < 48 then 32 else 16

/-- A slot record after reset (R62), over a given mark (R63). -/
def Slot.reset (i : Nat) (mark : Mark) : Slot := ⟨.empty, false, List.replicate (labelSize i) 0, mark⟩

/-- The format cache after reset: entry 0 alone (R24). -/
def cacheReset : Vector (Option Format) 16 := Vector.ofFn fun i : Fin 16 => if i.val = 0 then some format0 else none

/-- The machine right after reset, with a slot array never written (log 7), the LOCK input not asserted (log 9) and the
first block period in progress (R1, log 3). R74 has no unit hold the port after reset and the start-up scan take it in the
first block period: that the scan takes it at the very beginning of that period, which is in progress here, so that its first
unit holds the port already, and this period is its one block period, is the model's choice (R75, R87, log 37). -/
def State.reset : State where
  device := .starting
  lockInput := false
  freeCount := 0
  pending := []
  prog := LockMachine.reset
  sense := LockMachine.reset
  lockLost := false
  integrityAcc := 0
  integrityCount := 0
  windowCount := 0
  outSeq := 0
  periodOpen := true
  periodLocked := false
  periodStarting := true
  feedOut := []
  returnOut := []
  cache := cacheReset
  screens := Vector.replicate 12 Screen.reset
  slots := Vector.ofFn fun i : Fin 63 => Slot.reset i.val .blank
  array := []
  staging := []
  commit := ⟨.idle, .room 0 0, .empty, 0, 0, false, .none⟩
  storeNotices := []
  port := some ⟨.scan, 1⟩
  refreshes := []
  dropRefresh := false
  engineWork := none
  scan := some ⟨0, 0⟩
  scanBuf := []
  trunk := Source.reset
  senselink := Source.reset
  alarms := []
  marks := []
  lines := Vector.replicate 24 Line.reset
  asm := ⟨.waitStart, [], 0⟩
  held := none
  holdBuf := none
  replies := []
  laneLoss := false
  crcReject := false
  overrun := false
  commitEnded := false
  tx := []

end Sys2Proof.Machine
end

