-- ==== Sys2Proof/Machine/Bytes.lean ====
section
/-! DEFINITION. How fields stand in bytes (R183), the CRC-16 of every block, message and image (R184), and the search for
a sync pattern at every bit position (R4). -/

namespace Sys2Proof.Machine

/-- Byte n of a list; 0 beyond its end (no rule reads there once a length check has passed). -/
def byteAt (l : List Byte) (n : Nat) : Byte := l.getD n 0

/-- The unsigned number in k bytes from place n, most significant byte first (R183). -/
def fieldAt (l : List Byte) (n k : Nat) : Nat :=
  ((l.drop n).take k).foldl (fun acc b => acc * 256 + b.toNat) 0

/-- The two's complement number of k bits that n stands for (R183). -/
def signed (k n : Nat) : Int := if n < 2 ^ (k - 1) then n else (n : Int) - 2 ^ k

/-- The signed field in k bytes from place n (R183). -/
def signedAt (l : List Byte) (n k : Nat) : Int := signed (8 * k) (fieldAt l n k)

/-- A number as k bytes, most significant first (R183). -/
def toBytes : Nat → Nat → List Byte
  | 0, _ => []
  | k + 1, n => BitVec.ofNat 8 (n / 256 ^ k) :: toBytes k n

/-- A signed number as k bytes of two's complement (R183). -/
def toBytesSigned (k : Nat) (x : Int) : List Byte := toBytes k (x % 2 ^ (8 * k)).toNat

/-- A flag as a whole byte: 00h clear, 01h set. R187 gives this code to some of these bytes (device state, engine state, an
alarm notice's state); that the lock-lost latch, the boot flag, and the levels that LINE-DRIVE reports have it too is the
model's choice (log 32). -/
def flagByte (b : Bool) : Byte := if b then 1 else 0

/-- A position as four bytes: frame, then block index (R183). -/
def positionBytes (p : Position) : List Byte := toBytes 3 p.frame ++ toBytes 1 p.block

/-- The position in four bytes from place n (R183). -/
def positionAt (l : List Byte) (n : Nat) : Position := ⟨fieldAt l n 3, fieldAt l (n + 3) 1⟩

/-- One bit step of the CRC-16: polynomial 1021h, most significant bit first (R184). -/
def crcBit (c : Half) : Half := if c.msb then (c <<< 1) ^^^ 0x1021#16 else c <<< 1

/-- One byte step of the CRC-16 (R184). -/
def crcByte (c : Half) (b : Byte) : Half :=
  crcBit (crcBit (crcBit (crcBit (crcBit (crcBit (crcBit (crcBit (c ^^^ (b.zeroExtend 16 <<< 8)))))))))

/-- The CRC-16 of a byte sequence: initial value FFFFh, no final inversion (R184). -/
def crc16 (l : List Byte) : Half := l.foldl crcByte 0xFFFF#16

/-- A CRC as it is carried: two bytes, most significant first (R184). -/
def crcBytes (l : List Byte) : List Byte := toBytes 2 (crc16 l).toNat

/-- The bits of a byte, most significant first (00_scope.md, Byte order). -/
def byteBits (b : Byte) : List Bool := (List.range 8).map fun i => b.getMsbD i

/-- The bits of a byte sequence in the order they arrive. -/
def bitsOf (l : List Byte) : List Bool := l.flatMap byteBits

/-- The byte that eight bits make, most significant first. -/
def bitsByte (l : List Bool) : Byte :=
  BitVec.ofNat 8 (l.foldl (fun acc b => 2 * acc + (if b then 1 else 0)) 0)

/-- The first n whole bytes of a bit stream. -/
def bytesOf : Nat → List Bool → List Byte
  | 0, _ => []
  | n + 1, l => if l.length < 8 then [] else bitsByte (l.take 8) :: bytesOf n (l.drop 8)

/-- The first block that `read` finds good among those that begin with the sync pattern, searched at every bit position in
order; after a bad one the search resumes at the bit after the start of its pattern (R4). -/
def searchBits {α : Type} (sync : List Byte) (read : List Bool → Option α) : List Bool → Option α
  | [] => none
  | b :: rest =>
    if bytesOf sync.length (b :: rest) = sync then
      match read (b :: rest) with
      | some x => some x
      | none => searchBits sync read rest
    else searchBits sync read rest

end Sys2Proof.Machine
end

