-- ==== Sys2Proof/Machine/Memory.lean ====
section
/-! DEFINITION. The two addressed stores, the staging buffer (R64) and the slot array (R62), as canonical lists of cells:
addresses strictly rising, no cell equal to what an unlisted address reads as. -/

namespace Sys2Proof.Machine

/-- Addresses rise strictly and every one is above `lo`. -/
def Memory.risesFrom : Nat → Memory → Bool
  | _, [] => true
  | lo, (a, _) :: rest => decide (lo ≤ a) && Memory.risesFrom (a + 1) rest

/-- The canonical form, for a store whose unlisted addresses read as `dflt`. -/
def Memory.wf (dflt : Byte) (m : Memory) : Bool :=
  Memory.risesFrom 0 m && m.all fun c => decide (c.2 ≠ dflt)

/-- The byte at an address. -/
def Memory.read (dflt : Byte) : Memory → Nat → Byte
  | [], _ => dflt
  | (a, b) :: rest, x => if x = a then b else Memory.read dflt rest x

/-- Writing one byte, keeping the form: a byte equal to the default removes the cell. -/
def Memory.write (dflt : Byte) : Memory → Nat → Byte → Memory
  | [], x, v => if v = dflt then [] else [(x, v)]
  | (a, b) :: rest, x, v =>
    if x < a then (if v = dflt then (a, b) :: rest else (x, v) :: (a, b) :: rest)
    else if x = a then (if v = dflt then rest else (a, v) :: rest)
    else (a, b) :: Memory.write dflt rest x v

/-- Writing a run of bytes from an address on. -/
def Memory.writeAll (dflt : Byte) (m : Memory) (x : Nat) : List Byte → Memory
  | [] => m
  | v :: vs => Memory.writeAll dflt (m.write dflt x v) (x + 1) vs

/-- The n bytes from an address on. -/
def Memory.readAll (dflt : Byte) (m : Memory) (x n : Nat) : List Byte :=
  (List.range n).map fun i => m.read dflt (x + i)

/-- What an unlisted byte of the staging buffer reads as: 0 (R64). -/
def stagingDefault : Byte := 0

/-- What an unlisted byte of the slot array reads as: FFh, the byte an erase writes. The spec gives a slot never written no
contents (DESIGN CHOICE, log 7). -/
def arrayDefault : Byte := 255

/-- The n bytes of the staging buffer from an offset on (R64). -/
def State.stagingBytes (s : State) (offset n : Nat) : List Byte := Memory.readAll stagingDefault s.staging offset n

/-- The staging buffer with bytes written from an offset on (R64). -/
def State.writeStaging (s : State) (offset : Nat) (data : List Byte) : State :=
  { s with staging := Memory.writeAll stagingDefault s.staging offset data }

/-- The n bytes of the slot array from an address on (R62). -/
def State.arrayBytes (s : State) (addr n : Nat) : List Byte := Memory.readAll arrayDefault s.array addr n

/-- The slot array with bytes written from an address on (R62). -/
def State.writeArray (s : State) (addr : Nat) (data : List Byte) : State :=
  { s with array := Memory.writeAll arrayDefault s.array addr data }

end Sys2Proof.Machine
end

