-- ==== Sys2Proof/Machine/Ops.lean ====
section
/-! DEFINITION. The one home of every access to screens, feeds, lines, slots and alarm sources, and the loops over them. -/

namespace Sys2Proof.Machine

/-! ## Screens and feeds -/

/-- The record of a screen. -/
def State.screen (s : State) (i : Fin 12) : Screen := s.screens[i]

/-- The state with a screen's record replaced. -/
def State.setScreen (s : State) (i : Fin 12) (x : Screen) : State := { s with screens := s.screens.set i x }

/-- The state with a screen's record changed. -/
def State.onScreen (s : State) (i : Fin 12) (f : Screen → Screen) : State := s.setScreen i (f (s.screen i))

/-- The record of a feed of a screen. -/
def Screen.feed (x : Screen) (k : Fin 16) : Feed := x.feeds[k]

/-- The screen with a feed's record replaced. -/
def Screen.setFeed (x : Screen) (k : Fin 16) (f : Feed) : Screen := { x with feeds := x.feeds.set k f }

/-- The screen with every feed's record made anew from its number and its record. -/
def Screen.mapFeeds (x : Screen) (g : Fin 16 → Feed → Feed) : Screen :=
  { x with feeds := Vector.ofFn fun k : Fin 16 => g k (x.feed k) }

/-- The record of feed i.k. -/
def State.feed (s : State) (i : Fin 12) (k : Fin 16) : Feed := (s.screen i).feed k

/-- The state with the record of feed i.k changed. -/
def State.onFeed (s : State) (i : Fin 12) (k : Fin 16) (g : Feed → Feed) : State :=
  s.onScreen i fun x => x.setFeed k (g (x.feed k))

/-- The feed record of the live set in force for feed i.k (R76). -/
def State.feedSet (s : State) (i : Fin 12) (k : Fin 16) : FeedSet := (s.screen i).live.feeds[k]

/-- A step made for each screen, screen 1 first. -/
def State.forScreens (s : State) (f : Fin 12 → State → State) : State :=
  (List.finRange 12).foldl (fun t i => f i t) s

/-- A step made for each feed of each screen, in feed order (R186). -/
def State.forFeeds (s : State) (f : Fin 12 → Fin 16 → State → State) : State :=
  s.forScreens fun i t => (List.finRange 16).foldl (fun u k => f i k u) t

/-- The first screen, in screen order, for which a test holds. -/
def State.findScreen (s : State) (p : Screen → Bool) : Option (Fin 12) :=
  (List.finRange 12).find? fun i => p (s.screen i)

/-! ## Lines -/

/-- The record of a line. -/
def State.line (s : State) (n : Fin 24) : Line := s.lines[n]

/-- The state with a line's record replaced. -/
def State.setLine (s : State) (n : Fin 24) (l : Line) : State := { s with lines := s.lines.set n l }

/-- A step made for each line, LINE1 first. -/
def State.forLines (s : State) (f : Fin 24 → State → State) : State :=
  (List.finRange 24).foldl (fun t n => f n t) s

/-! ## Slots -/

/-- The place of a slot among the 63: room slots first, screen by screen, then format slots (R62). -/
def SlotId.index : SlotId → Fin 63
  | .room i n => ⟨4 * i.val + n.val, by omega⟩
  | .format f => ⟨48 + f.val, by omega⟩

/-- The pages of a slot (R62). -/
def SlotId.pages : SlotId → Nat
  | .room _ _ => 12
  | .format _ => 2

/-- The bytes of the image a slot holds (R62). -/
def SlotId.imageSize : SlotId → Nat
  | .room _ _ => 2944
  | .format _ => 304

/-- Where a slot's first page begins in the slot array: 48 room slots of twelve pages, then 15 format slots of two (R62). -/
def SlotId.base : SlotId → Nat
  | .room i n => 3072 * (4 * i.val + n.val)
  | .format f => 3072 * 48 + 512 * f.val

/-- The record of a slot. -/
def State.slot (s : State) (id : SlotId) : Slot := s.slots[id.index]

/-- The state with a slot's record changed. -/
def State.onSlot (s : State) (id : SlotId) (f : Slot → Slot) : State :=
  { s with slots := s.slots.set id.index (f (s.slot id)) }

/-- The slot record with boot flag and label copies cleared (R62). -/
def Slot.cleared (i : Nat) (x : Slot) (st : SlotState) : Slot :=
  { x with state := st, boot := false, label := List.replicate (labelSize i) 0 }

/-- A slot that becomes EMPTY or INVALID: its record copies are cleared (R62). -/
def State.clearSlot (s : State) (id : SlotId) (st : SlotState) : State :=
  s.onSlot id fun x => Slot.cleared id.index.val x st

/-- A slot mark written (R63). -/
def State.setMark (s : State) (id : SlotId) (m : Mark) : State := s.onSlot id fun x => { x with mark := m }

/-! ## Alarm sources -/

/-- The record of an alarm source (R96). -/
def State.source (s : State) : SourceId → Source
  | .trunk => s.trunk
  | .senselink => s.senselink
  | .track i => (s.screen i).track
  | .dropout i => (s.screen i).dropout
  | .preset i => (s.screen i).preset
  | .cue i => (s.screen i).cue
  | .overload i k => (s.feed i k).overload
  | .silent i k => (s.feed i k).silent
  | .mismatch i k => (s.feed i k).mismatch

/-- The state with an alarm source's record replaced. -/
def State.setSource (s : State) (id : SourceId) (x : Source) : State :=
  match id with
  | .trunk => { s with trunk := x }
  | .senselink => { s with senselink := x }
  | .track i => s.onScreen i fun y => { y with track := x }
  | .dropout i => s.onScreen i fun y => { y with dropout := x }
  | .preset i => s.onScreen i fun y => { y with preset := x }
  | .cue i => s.onScreen i fun y => { y with cue := x }
  | .overload i k => s.onFeed i k fun y => { y with overload := x }
  | .silent i k => s.onFeed i k fun y => { y with silent := x }
  | .mismatch i k => s.onFeed i k fun y => { y with mismatch := x }

/-- The four screen sources of a screen, in kind order (R124). -/
def screenSources (i : Fin 12) : List SourceId := [.track i, .dropout i, .preset i, .cue i]

/-- The 48 feed sources of a screen, in source order (R124). -/
def feedSources (i : Fin 12) : List SourceId :=
  (List.finRange 16).flatMap fun k => [.overload i k, .silent i k, .mismatch i k]

/-- The 626 sources in source order (R124): device, screens, feeds. -/
def allSources : List SourceId :=
  [.trunk, .senselink] ++ (List.finRange 12).flatMap screenSources ++ (List.finRange 12).flatMap feedSources

/-- Whether a source is ACTIVE or RELEASE. -/
def Source.isUp (x : Source) : Bool := x.state = .active || x.state = .release

/-! ## Blocks per frame, positions -/

/-- The blocks per frame of a rate code (R14). -/
def blocksPerFrame (r : Fin 4) : Nat :=
  match r.val with
  | 0 => 50
  | 1 => 48
  | 2 => 40
  | _ => 25

/-- Position p is before position q: frame first, then block index (R136). -/
def Position.before (p q : Position) : Bool := p.frame < q.frame || (p.frame = q.frame && p.block < q.block)

/-- Position p is at or before position q (R136). -/
def Position.upTo (p q : Position) : Bool := !q.before p

/-! ## Rounding and saturation (00_scope.md, Arithmetic notation) -/

/-- A value saturated to the 24-bit sample range. -/
def sat24 (x : Int) : Int := max (-8388608) (min 8388607 x)

/-- A sample saturated to 24 bits, marked clipped when that changes it. -/
def Sample.saturate (x : Int) : Sample := ⟨sat24 x, decide (sat24 x ≠ x)⟩

/-- A coefficient saturated to 16 bits (R34). -/
def sat16 (x : Int) : Int := max (-32768) (min 32767 x)

/-- floor((a + 16384) / 32768), half up, for gains (R35, R44). -/
def roundGain (a : Nat) : Nat := (a + 16384) / 32768

end Sys2Proof.Machine
end

