-- ==== Sys2Proof/Machine/AlarmQueue.lean ====
section
/-! DEFINITION. The alarm queue (chapter 7): records, updating in place, deferral, and the leaving of a record. -/

namespace Sys2Proof.Machine

/-- The action mask of the live set in force includes NOTIFY for a feed source; screen and device sources are always
reported (R98). -/
def State.notifies (s : State) : SourceId → Bool
  | .overload i k | .silent i k | .mismatch i k => (s.feedSet i k).notify
  | _ => true

/-- The value a report of a source carries: the feed's present block peak, level or last sense code (R98, R129); none for
screen and device kinds. -/
def State.reportValue (s : State) : SourceId → Option Nat
  | .overload i k => some (s.feed i k).meter.peak
  | .silent i k => some (s.feed i k).meter.level
  | .mismatch i k => some (s.feed i k).meter.lastSense
  | _ => none

/-- Whether a source has a record in the list. -/
def State.queued (s : State) (id : SourceId) : Bool := s.alarms.any fun r => r.src = id

/-- A count of transitions raised by one and held at 255 (R126, R127). -/
def countUp (n : Nat) : Nat := min 255 (n + 1)

/-- The record updated in place (R126). -/
def AlarmRecord.update (r : AlarmRecord) (raised : Bool) (seq : Half) (value : Option Nat) : AlarmRecord :=
  { r with raised := raised, transitions := countUp r.transitions, seq := seq, value := value }

/-- The alarm queue takes a transition report: update in place, append, or defer (R125 to R127). -/
def State.takeReport (s : State) (id : SourceId) (raised : Bool) (seq : Half) (value : Option Nat) : State :=
  if s.queued id then
    { s with alarms := s.alarms.map fun r => if r.src = id then r.update raised seq value else r }
  else if (s.source id).unreported = false ∧ s.alarms.length < Config.alarmPlaces then
    { s with alarms := s.alarms ++ [AlarmRecord.mk id raised 1 seq value] }
  else
    s.setSource id { s.source id with
      unreported := true, unreportedCount := countUp (s.source id).unreportedCount }

/-- The monitor hands a transition to the queue: always for screen and device sources, under NOTIFY for feed sources
(R98). -/
def State.report (s : State) (id : SourceId) (raised : Bool) (seq : Half) : State :=
  if s.notifies id then s.takeReport id raised seq (s.reportValue id) else s

/-- The first source in source order whose unreported flag is set (R124, R129). -/
def State.firstDeferred (s : State) : Option SourceId := allSources.find? fun id => (s.source id).unreported

/-- The record built for a deferred source (R129). -/
def State.buildDeferred (s : State) : State :=
  match s.firstDeferred with
  | none => s
  | some id =>
    let x := s.source id
    let s1 := { s with alarms := s.alarms ++ [AlarmRecord.mk id x.isUp x.unreportedCount s.outSeq (s.reportValue id)] }
    s1.setSource id { x with unreported := false, unreportedCount := 0 }

/-- The head of the list leaves as its notice begins, and one deferred source may get a record (R128, R129). -/
def State.alarmLeaves (s : State) : State := ({ s with alarms := s.alarms.tail }).buildDeferred

end Sys2Proof.Machine
end

