-- ==== Sys2Proof/Machine/Matrix.lean ====
section
/-! DEFINITION. Surround decoding (chapter 2): out feeds, the effective matrix with fold-over, the fold states, the TRACK
condition and the decode arithmetic. -/

namespace Sys2Proof.Machine

/-- The base coefficient of feed k, track t of a format, zero at or above the track count (R22, R34). -/
def Format.base (f : Format) (k t : Nat) : Int := if t < f.trackCount then (f.rows.getD k []).getD t 0 else 0

/-- The fold gain as it is used: at most 32768 (R22). -/
def Format.gain (f : Format) : Nat := min f.foldGain Config.unity

/-- The fold partner of feed k (R22). -/
def Format.partner (f : Format) (k : Fin 16) : Option (Fin 16) := f.partners.getD k.val none

/-- The out set of a screen: feeds disabled in the live set and feeds of the fold set (R32). -/
def Screen.out (x : Screen) (k : Fin 16) : Bool := !x.live.enable.getLsbD k.val || (x.feed k).folded

/-- The fold addend of an out feed's coefficient: floor((c × g + 16384) / 32768) (R35). -/
def foldAddend (c : Int) (g : Nat) : Int := (c * g + 16384) / 32768

/-- Whether out feed j folds into feed k (R35: j is out, its partner is k, and k is not out). -/
def foldsInto (f : Format) (out : Fin 16 → Bool) (j k : Fin 16) : Bool :=
  out j && f.partner j = some k && !out k

/-- The sum of all fold addends into feed k for track t (R35). -/
def addends (f : Format) (out : Fin 16 → Bool) (k : Fin 16) (t : Nat) : Int :=
  ((List.finRange 16).map fun j => if foldsInto f out j k then foldAddend (f.base j.val t) f.gain else 0).sum

/-- The effective coefficient of feed k, track t (R34). -/
def effective (f : Format) (out : Fin 16 → Bool) (k : Fin 16) (t : Nat) : Int :=
  if out k then 0
  else if t < f.trackCount then sat16 (f.base k.val t + addends f out k t)
  else 0

/-- The effective row of feed k: eight coefficients (R34). -/
def effectiveRow (f : Format) (out : Fin 16 → Bool) (k : Fin 16) : List Int :=
  (List.range 8).map fun t => effective f out k t

/-- The fold state of feed k (R36). -/
def foldStateOf (f : Format) (out : Fin 16 → Bool) (k : Fin 16) : FoldState :=
  if out k then
    match f.partner k with
    | some p => if out p then .dropped else .folded
    | none => .dropped
  else .none

/-- The effective format of a screen: its override if set, else the tracker's code (R27). -/
def Screen.effectiveCode (x : Screen) : Fin 16 := x.override.getD x.tracker.code

/-- The cache entry of a format code, or format 0 in its place (R27). -/
def State.formatFor (s : State) (code : Fin 16) : Format := (s.cache[code]).getD format0

/-- A screen with its effective matrix and fold states rebuilt for a format (R34 to R37). -/
def Screen.rebuilt (x : Screen) (f : Format) : Screen :=
  x.mapFeeds fun k y => { y with row := effectiveRow f x.out k, fold := foldStateOf f x.out k }

/-- The rebuild of a screen's matrix from the state in force (R37). -/
def State.rebuild (s : State) (i : Fin 12) : State :=
  s.onScreen i fun x => x.rebuilt (s.formatFor x.effectiveCode)

/-- The rebuild of every screen after a change of the cache; a screen whose entry in use did not change is left as it was
(R37). -/
def State.rebuildAll (s : State) : State := s.forScreens fun i t => t.rebuild i

/-- A cache entry replaced or made absent, and the rebuild that follows (R25, R26, R37). -/
def State.setCache (s : State) (code : Fin 16) (e : Option Format) : State :=
  State.rebuildAll { s with cache := s.cache.set code e }

/-- The cache place of format slot f: format code f + 1. -/
def formatCode (f : Fin 15) : Fin 16 := f.succ

/-- The format code in force for the block handed: the override if one is set, else the tracker's (R27). -/
def Handed.effectiveCode (h : Handed) : Fin 16 := h.override.getD h.code

/-- The override set or released by a cue: in force from the block after the one in progress (R19, R28, R37). -/
def State.setOverride (s : State) (i : Fin 12) (v : Option (Fin 16)) : State :=
  (s.onScreen i fun x => { x with override := v }).rebuild i

/-- The override set or released by a request: in force for the block in progress too, which is not yet decoded (R29, R37,
R38). That it is so also where a FORMAT cue of the same period already set or released the same is the model's choice
(log 33). -/
def State.takeOverride (s : State) (i : Fin 12) (v : Option (Fin 16)) : State :=
  (s.onScreen i fun x => { x with handed := { x.handed with override := v } }).setOverride i v

/-- A feed added to or removed from the fold set, with the rebuild (R33, R37). -/
def State.setFolded (s : State) (i : Fin 12) (k : Fin 16) (v : Bool) : State :=
  (s.onFeed i k fun y => { y with folded := v }).rebuild i

/-- The fold set of a screen emptied, with the rebuild (R33, R37). -/
def State.emptyFoldSet (s : State) (i : Fin 12) : State :=
  (s.onScreen i fun x => x.mapFeeds fun _ y => { y with folded := false }).rebuild i

/-- The TRACK condition of a block: the entry absent, or a required track below the track count missing (R31). -/
def State.trackCondition (s : State) (h : Handed) : Bool :=
  let f := s.formatFor h.effectiveCode
  (s.cache[h.effectiveCode]).isNone ||
    (List.range 8).any fun t => f.required.getLsbD t && decide (t < f.trackCount) && !h.mask.getLsbD t

/-- The exact sum of one sample period: samples times effective coefficients (R39). -/
def dot (row xs : List Int) : Int := (List.zipWith (· * ·) row xs).sum

/-- One decoded sample: floor((S + 8192) / 16384), saturated, with its clip mark (R39, R40). -/
def decodeSample (row xs : List Int) : Sample := Sample.saturate ((dot row xs + 8192) / 16384)

/-- The samples of all tracks in sample period n of a block (R39). -/
def trackSamples (tracks : List (List Int)) (n : Nat) : List Int := tracks.map fun t => t.getD n 0

/-- The forty decoded samples of a feed with a given effective row (R39). -/
def decodeFeed (row : List Int) (tracks : List (List Int)) : List Sample :=
  (List.range Config.blockSamples).map fun n => decodeSample row (trackSamples tracks n)

end Sys2Proof.Machine
end

