-- ==== Sys2Proof/Machine/Alarms.lean ====
section
/-! DEFINITION. The alarm state machine (R96 to R99), the protective actions it drives (chapter 6), and the events that
force a CLEARED transition (R104 to R108). -/

namespace Sys2Proof.Machine

/-- The hold of a source (R96). -/
def State.holdOf (s : State) : SourceId → Nat
  | .overload i k => (s.feedSet i k).overHold
  | .silent i k => 16 * (s.feedSet i k).silenceHold
  | .mismatch i k => (s.feedSet i k).mismatchHold
  | .track _ => 12
  | .dropout _ => 6
  | .preset _ | .cue _ | .trunk | .senselink => 0

/-- The release of a source (R96). -/
def State.releaseOf (s : State) : SourceId → Nat
  | .overload i k => (s.feedSet i k).overReleaseTime
  | .silent i k => 16 * (s.feedSet i k).silenceHold
  | .mismatch i k => (s.feedSet i k).mismatchRelease
  | .track _ | .dropout _ => 120
  | .preset _ | .cue _ => 0
  | .trunk | .senselink => 1200

/-- One evaluation step (R97, R99): the source after it, and the transition it made (`some true` RAISED, `some false`
CLEARED). A held step has no raw condition. -/
def Source.evaluate (x : Source) (hold release : Nat) : Option Bool → Source × Option Bool
  | none => (x, none)
  | some true =>
    match x.state with
    | .clear =>
      if hold ≤ 1 then ({ x with state := .active, count := 0, latched := true }, some true)
      else ({ x with state := .onset, count := 1 }, none)
    | .onset =>
      if hold ≤ x.count + 1 then ({ x with state := .active, count := 0, latched := true }, some true)
      else ({ x with count := x.count + 1 }, none)
    | .active => (x, none)
    | .release => ({ x with state := .active, count := 0 }, none)
  | some false =>
    match x.state with
    | .clear => (x, none)
    | .onset => ({ x with state := .clear, count := 0 }, none)
    | .active =>
      if release ≤ 1 then ({ x with state := .clear, count := 0 }, some false)
      else ({ x with state := .release, count := 1 }, none)
    | .release =>
      if release ≤ x.count + 1 then ({ x with state := .clear, count := 0 }, some false)
      else ({ x with count := x.count + 1 }, none)

/-- A protect step raised by one and held at 4 (R111, R112). -/
def stepUp (n : Nat) : Nat := min 4 (n + 1)

/-- The protect record after an OVER step: the transition it made, else the state it left (R111 to R113). -/
def Protect.after (p : Protect) (st : SourceState) : Option Bool → Protect
  | some true => ⟨stepUp p.step, 0, 0⟩
  | some false => ⟨p.step, 0, 0⟩
  | none =>
    match st with
    | .active =>
      if Config.escalateSteps ≤ p.escalation + 1 then ⟨stepUp p.step, 0, 0⟩
      else ⟨p.step, p.escalation + 1, 0⟩
    | .release | .onset => ⟨p.step, p.escalation, 0⟩
    | .clear =>
      if Config.recoverSteps ≤ p.recovery + 1 then ⟨p.step - 1, p.escalation, 0⟩
      else ⟨p.step, p.escalation, p.recovery + 1⟩

/-- What an evaluation step does beyond its report: PROTECT on an OVER step (R111), FOLD on a MISMATCH RAISED (R116). -/
def State.protectiveAction (s : State) (id : SourceId) (st : SourceState) (moved : Option Bool) : State :=
  match id with
  | .overload i k =>
    if (s.feedSet i k).protect then s.onFeed i k fun y => { y with protect := y.protect.after st moved } else s
  | .mismatch i k =>
    if (s.feedSet i k).fold ∧ moved = some true then s.setFolded i k true else s
  | _ => s

/-- The report of a step's transition, if it made one (R98). -/
def State.reportMove (s : State) (id : SourceId) (moved : Option Bool) (seq : Half) : State :=
  match moved with
  | some up => s.report id up seq
  | none => s

/-- One evaluation step of a source in place: its state machine, its report and its protective action (R97, R98). -/
def State.stepSource (s : State) (id : SourceId) (raw : Option Bool) (seq : Half) : State :=
  let r := (s.source id).evaluate (s.holdOf id) (s.releaseOf id) raw
  ((s.setSource id r.1).reportMove id r.2 seq).protectiveAction id r.1.state r.2

/-- A failure of a cue of the screen: its CUE source raises if CLEAR (R104, R161). -/
def State.cueFails (s : State) (i : Fin 12) : State :=
  if (s.screen i).cue.state = .active then s
  else
    (s.setSource (.cue i) { (s.screen i).cue with state := .active, count := 0, latched := true }).report
      (.cue i) true s.outSeq

/-- A source forced to CLEAR: a CLEARED transition if it was ACTIVE or RELEASE, its latched flag kept (R98, R106). -/
def State.forceClear (s : State) (id : SourceId) : State :=
  let s1 := if (s.source id).isUp then s.report id false s.outSeq else s
  s1.setSource id { s1.source id with state := .clear, count := 0 }

/-- A swap's resetting of the screen's 48 feed sources (R106). -/
def State.swapSources (s : State) (i : Fin 12) : State := (feedSources i).foldl State.forceClear s

/-- A source forced to CLEAR with its latched flag cleared (R107). -/
def State.restartSource (s : State) (id : SourceId) : State :=
  let s1 := s.forceClear id
  s1.setSource id { s1.source id with latched := false }

/-- A restart's resetting of the screen's 52 sources, in source order (R107, R130). -/
def State.restartSources (s : State) (i : Fin 12) : State :=
  (screenSources i ++ feedSources i).foldl State.restartSource s

/-- The latched flag cleared for a source in CLEAR or ONSET (R108). -/
def State.unlatch (s : State) (id : SourceId) : State :=
  if (s.source id).isUp then s else s.setSource id { s.source id with latched := false }

/-- ALARM-ACKNOWLEDGE of a screen: an ACTIVE CUE clears, then the flags of sources in CLEAR or ONSET (R108). -/
def State.acknowledgeScreen (s : State) (i : Fin 12) : State :=
  let s1 := if (s.screen i).cue.isUp then s.forceClear (.cue i) else s
  (screenSources i ++ feedSources i).foldl State.unlatch s1

/-- ALARM-ACKNOWLEDGE of the device (R108). -/
def State.acknowledgeDevice (s : State) : State := [SourceId.trunk, .senselink].foldl State.unlatch s

/-- Whether any of the screen's 52 sources is ACTIVE or RELEASE (R109). -/
def State.anyActive (s : State) (i : Fin 12) : Bool :=
  (screenSources i ++ feedSources i).any fun id => (s.source id).isUp

/-- Whether any of the screen's 52 sources is latched (R109). -/
def State.anyLatched (s : State) (i : Fin 12) : Bool :=
  (screenSources i ++ feedSources i).any fun id => (s.source id).latched

/-- The protect records of a screen set to all 0 (R114, R115). -/
def State.zeroProtect (s : State) (i : Fin 12) : State :=
  s.onScreen i fun x => x.mapFeeds fun _ y => { y with protect := ⟨0, 0, 0⟩ }

end Sys2Proof.Machine
end

