-- ==== Sys2Proof/Machine/Ramps.lean ====
section
/-! DEFINITION. The master level and mute gain ramps (section 3.6). -/

namespace Sys2Proof.Machine

/-- One boundary step: current + trunc((target - current) / r), then r falls by one (R53). -/
def Ramp.step (r : Ramp) : Ramp :=
  if r.remaining = 0 then r
  else
    { r with
      current := ((r.current : Int) + ((r.target : Int) - r.current).tdiv r.remaining).toNat
      remaining := r.remaining - 1 }

/-- Loading a ramp: it begins from its current value; a count of 0 is taken as 1 (R54). -/
def Ramp.load (r : Ramp) (target count : Nat) : Ramp :=
  ⟨r.current, r.current, target, if count = 0 then 1 else count⟩

/-- The mute gain's target (R59). -/
def muteTarget (d : Device) (x : Screen) : Nat :=
  if d = .starting then 0
  else if x.muted then 0
  else if x.phase = .fadingOut then 0
  else Config.unity

/-- The recomputing of a screen's mute gain target: a target that differs loads the ramp with a count of 12 (R59). -/
def Screen.recompute (d : Device) (x : Screen) : Screen :=
  if muteTarget d x = x.mute.target then x
  else { x with mute := x.mute.load (muteTarget d x) Config.swapBlocks }

/-- The recomputing of a screen's mute gain target in place (R59). -/
def State.recomputeMute (s : State) (i : Fin 12) : State := s.onScreen i fun x => x.recompute s.device

/-- The master level ramp loaded (R55). -/
def State.loadMaster (s : State) (i : Fin 12) (target count : Nat) : State :=
  s.onScreen i fun x => { x with master := x.master.load target count }

/-- The screen mute flag set or cleared, and the target recomputed (R57, R59). -/
def State.setMuted (s : State) (i : Fin 12) (v : Bool) : State :=
  (s.onScreen i fun x => { x with muted := v }).recomputeMute i

end Sys2Proof.Machine
end

