-- ==== Sys2Proof/Machine/FeedChain.lean ====
section
/-! DEFINITION. The feed chain (chapter 3): block gains, the gain stage, the biquad cascade, the alignment delay. -/

namespace Sys2Proof.Machine

/-- The protect factor of a protect step (R43). -/
def protectFactor (step : Nat) : Nat :=
  match step with
  | 0 => 32768
  | 1 => 23170
  | 2 => 16384
  | 3 => 11585
  | _ => 8192

/-- The block gain G3 of a feed from master M, mute U, trim T, protect factor P and its out flag (R44). -/
def blockGain (m u t p : Nat) (out : Bool) : Nat :=
  let g1 := roundGain (m * u)
  let g2 := min 65535 (roundGain (g1 * t))
  if out then 0 else roundGain (g2 * p)

/-- Stage 1: the scaled sample, floor((d × G3 + 16384) / 32768) saturated; the clip mark is kept or gained (R45). -/
def gainStage (g3 : Nat) (d : Sample) : Sample :=
  let s := Sample.saturate ((d.value * g3 + 16384) / 32768)
  ⟨s.value, d.clip || s.clip⟩

/-- The accumulator of a section (R46). -/
def accumulate (c : Coeffs) (st : Biquad) (x : Int) : Int :=
  c.b0 * x + c.b1 * st.x1 + c.b2 * st.x2 - c.a1 * st.y1 - c.a2 * st.y2

/-- One section: its output, saturated, and its states after the sample (R46, R47). -/
def sectionStep (c : Coeffs) (st : Biquad) (x : Sample) : Sample × Biquad :=
  let y := Sample.saturate ((accumulate c st x.value + 2097152) / 4194304)
  (⟨y.value, x.clip || y.clip⟩, ⟨x.value, st.x1, y.value, st.y1⟩)

/-- Stage 2: the first n sections in order; the states of the others stay as they are (R46, R47). -/
def cascade : Nat → List Coeffs → List Biquad → Sample → Sample × List Biquad
  | n + 1, c :: cs, st :: sts, x =>
    let r := sectionStep c st x
    let q := cascade n cs sts r.1
    (q.1, r.2 :: q.2)
  | _, _, sts, x => (x, sts)

/-- Stage 3: the sample is written as the most recent, and the one written D sample periods earlier is given out (R49). -/
def delayStage (d : Nat) (line : List Sample) (x : Sample) : Sample × List Sample :=
  let l := (x :: line).take Config.delaySize
  (l.getD d ⟨0, false⟩, l)

/-- What a feed's chain carries from sample to sample. -/
structure ChainState where
  biquads : List Biquad
  delay : List Sample
deriving DecidableEq, Repr

/-- One decoded sample through stages 1 to 3 (R42). -/
def chainSample (g3 : Nat) (f : FeedSet) (c : ChainState) (d : Sample) : Sample × ChainState :=
  let q := cascade f.sectionCount f.sections c.biquads (gainStage g3 d)
  let r := delayStage f.delay c.delay q.1
  (r.1, ⟨q.2, r.2⟩)

/-- The samples of a block through stages 1 to 3, in sample order (R42). -/
def chainBlock (g3 : Nat) (f : FeedSet) : ChainState → List Sample → List Sample × ChainState
  | c, [] => ([], c)
  | c, d :: ds =>
    let r := chainSample g3 f c d
    let q := chainBlock g3 f r.2 ds
    (r.1 :: q.1, q.2)

/-- The block gain of feed k of a screen from the factors in force (R43, R44). -/
def Screen.gain (x : Screen) (k : Fin 16) : Nat :=
  blockGain x.master.current x.mute.current (x.live.feeds[k]).trim (protectFactor (x.feed k).protect.step) (x.out k)

/-- The block of feed k through decode and stages 1 to 3: the samples given out and the chain's state after them (R39,
R42). -/
def Screen.feedBlock (x : Screen) (f : Format) (k : Fin 16) : List Sample × ChainState :=
  chainBlock (x.gain k) (x.live.feeds[k]) ⟨(x.feed k).biquads, (x.feed k).delay⟩
    (decodeFeed (effectiveRow f x.out k) x.handed.tracks)

/-- Stage 4: the samples placed on FEED OUT and handed to the meter: the computed ones, or unclipped zeros in a period
that is silent (R51). -/
def placeOut (silent : Bool) (l : List Sample) : List Sample :=
  if silent then List.replicate Config.blockSamples ⟨0, false⟩ else l

end Sys2Proof.Machine
end

