-- ==== Sys2Proof/Machine/CueLists.lean ====
section
/-! DEFINITION. Cue lists (chapter 8): order, the pool, the edits and the tags. -/

namespace Sys2Proof.Machine

/-- The pool's free count: 1024 less the cues in all lists (R137). -/
def State.freeCues (s : State) : Nat :=
  Config.poolSize - ((List.finRange 12).map fun i => (s.screen i).cues.length).sum

/-- The index at which list order puts a new cue: after every cue at or before its position (R138). -/
def insertIndex (l : List Cue) (p : Position) : Nat := (l.takeWhile fun c => c.pos.upTo p).length

/-- A list with a cue inserted in list order (R138). -/
def insertCue (l : List Cue) (c : Cue) : List Cue :=
  l.take (insertIndex l c.pos) ++ c :: l.drop (insertIndex l c.pos)

/-- The pointer after an insert, with the engine TRACKING: it rises for a cue at or before the last processed position
(R139). -/
def Screen.pointerAfterInsert (x : Screen) (p : Position) : Nat :=
  match x.tracking, x.enginePos with
  | true, some q => if p.upTo q then x.pointer + 1 else x.pointer
  | _, _ => x.pointer

/-- The pointer after the cues of a set of indexes leave: it falls by those below it while TRACKING (R139). -/
def Screen.pointerAfterDelete (x : Screen) (gone : Cue → Bool) : Nat :=
  if x.tracking then x.pointer - ((x.cues.take x.pointer).filter gone).length else x.pointer

/-- A cue inserted with the counter's value as its insertion number (R141). -/
def Screen.insert (x : Screen) (c : Cue) : Screen :=
  let c1 := { c with number := x.counter, tagged := false }
  { x with cues := insertCue x.cues c1, counter := x.counter + 1, pointer := x.pointerAfterInsert c.pos }

/-- The cues of a set leave the list; the others keep their order (R142, R147). -/
def Screen.removeCues (x : Screen) (gone : Cue → Bool) : Screen :=
  { x with cues := x.cues.filter fun c => !gone c, pointer := x.pointerAfterDelete gone }

/-- The list emptied, pointer and counter 0 (R143). That the pointer becomes 0 also where the list was empty already is the
model's choice between two sentences of the spec (log 30). -/
def Screen.clearCues (x : Screen) : Screen := { x with cues := [], pointer := 0, counter := 0 }

/-- Whether any cue of the list is tagged (R140). -/
def Screen.anyTagged (x : Screen) : Bool := x.cues.any Cue.tagged

/-- The number of tagged cues (R145, R146). -/
def Screen.taggedCount (x : Screen) : Nat := (x.cues.filter Cue.tagged).length

/-- Every tag mark of the list cleared (R140). -/
def Screen.clearTags (x : Screen) : Screen := { x with cues := x.cues.map fun c => { c with tagged := false } }

/-- Whether a cue stands in a range of positions, both ends included (R145). -/
def Cue.within (c : Cue) (p q : Position) : Bool := p.upTo c.pos && c.pos.upTo q

/-- Every cue of a range of positions tagged (R145). -/
def Screen.tagRange (x : Screen) (p q : Position) : Screen :=
  { x with cues := x.cues.map fun c => { c with tagged := c.tagged || c.within p q } }

/-- The tag mark of the cue with an id cleared (R146). -/
def Screen.untag (x : Screen) (id : Nat) : Screen :=
  { x with cues := x.cues.map fun c => if c.id = id then { c with tagged := false } else c }

/-- The index of the cue with an id (R142). -/
def Screen.cueIndex (x : Screen) (id : Nat) : Option Nat := x.cues.findIdx? fun c => c.id = id

/-- The chase key of an action (R135): LINE(n), LEVEL, PRESET, FORMAT or MUTE; none for a pulse or a mark. -/
inductive ChaseKey where
  | line (n : Fin 24)
  | level
  | preset
  | format
  | mute
deriving DecidableEq, Repr

/-- The chase key of an action (R135). -/
def CueAction.key : CueAction → Option ChaseKey
  | .lineSet n _ => some (.line n)
  | .linePulse _ _ => none
  | .fade _ _ => some .level
  | .preset _ => some .preset
  | .format _ => some .format
  | .mute | .unmute => some .mute
  | .mark _ => none

end Sys2Proof.Machine
end

