-- ==== Sys2Proof/Machine/Lines.lean ====
section
/-! DEFINITION. The booth line driver (chapter 10). -/

namespace Sys2Proof.Machine

/-- A line's demand from its source (R166). -/
def State.demand (s : State) (l : Line) : Bool :=
  match l.source with
  | .none => false
  | .cue => l.cueLevel
  | .alarmLive => match l.owner with
    | some i => (s.screen i).alarmActive
    | none => false
  | .alarmLatched => match l.owner with
    | some i => (s.screen i).alarmLatched
    | none => false
  | .trunk => decide (s.prog.state = .locked)
  | .forced => l.forced

/-- The logical level's response to a demand (R167). -/
def Line.follow (l : Line) (d : Bool) : Line :=
  if l.level then
    if d then l
    else if l.stretchTimer = 0 then { l with level := false }
    else l
  else if d then { l with level := true, stretchTimer := l.stretch * 12, blinkCount := 0 }
  else l

/-- A line takes its demand as it stands (R166, R167); nothing happens where the demand is already followed. -/
def State.refreshLine (s : State) (n : Fin 24) : State := s.setLine n ((s.line n).follow (s.demand (s.line n)))

/-- Every line takes its demand as it stands, after a change of an alarm indication or of the lock state (R166). -/
def State.refreshLines (s : State) : State := s.forLines fun n t => t.refreshLine n

/-- A set or a pulse as the line driver takes it: the cue level and the pulse timer (R169). -/
def Line.drive (l : Line) (on : Bool) (pulse : Nat) : Line := { l with cueLevel := on, pulse := pulse }

/-- A set or a pulse taken by line n, followed by the logical level (R169). -/
def State.driveLine (s : State) (n : Fin 24) (on : Bool) (pulse : Nat) : State :=
  (s.setLine n ((s.line n).drive on pulse)).refreshLine n

/-- Whether the line driver takes a set or pulse of a screen for line n: owned by the screen, with source CUE (R157). -/
def State.lineTakes (s : State) (n : Fin 24) (i : Fin 12) : Bool :=
  decide ((s.line n).owner = some i ∧ (s.line n).source = .cue)

/-- The pulse timer's boundary step (R169). -/
def State.pulseStep (s : State) (n : Fin 24) : State :=
  let l := s.line n
  if l.pulse = 0 then s
  else if l.pulse = 1 then (s.setLine n { l with pulse := 0, cueLevel := false }).refreshLine n
  else s.setLine n { l with pulse := l.pulse - 1 }

/-- The stretch timer's boundary step; at its expiry the level takes the demand as it then stands (R167). -/
def State.stretchStep (s : State) (n : Fin 24) : State :=
  let l := s.line n
  if l.stretchTimer = 0 then s
  else if l.stretchTimer = 1 then s.setLine n { l with stretchTimer := 0, level := s.demand l }
  else s.setLine n { l with stretchTimer := l.stretchTimer - 1 }

/-- The last value of the blink count before it returns to 0 (R168). -/
def Blink.last : Blink → Nat
  | .steady => 0
  | .slow => 1199
  | .fast => 299

/-- The blink count's boundary step (R168). -/
def Line.blinkStep (l : Line) : Line :=
  if l.level ∧ l.blink ≠ .steady then
    { l with blinkCount := if l.blinkCount = l.blink.last then 0 else l.blinkCount + 1 }
  else l

/-- A line's boundary step: pulse timer first, stretch timer second (R169), then the blink count (R168). That the blink count
steps last, so that a line turning OFF at the boundary does not count once more, is the model's choice (log 11). -/
def State.lineBoundary (s : State) (n : Fin 24) : State :=
  let s1 := (s.pulseStep n).stretchStep n
  s1.setLine n (s1.line n).blinkStep

/-- The blink phase of a line: on or off (R168). -/
def Line.phase (l : Line) : Bool :=
  match l.source with
  | .alarmLive | .alarmLatched =>
    match l.blink with
    | .steady => true
    | .slow => decide (l.blinkCount < 600)
    | .fast => decide (l.blinkCount < 150)
  | _ => true

/-- The pin of a line: driven high or not (R168). -/
def Line.pin (l : Line) : Bool := (l.level && l.phase) != l.lowActive

/-- The pin of LINE n + 1. -/
def State.linePin (s : State) (n : Fin 24) : Bool := (s.line n).pin

end Sys2Proof.Machine
end

