-- ==== Sys2Proof/Machine/Images.lean ====
section
/-! DEFINITION. Room preset and format images: their layouts (R188), their checks (R67), and the live set or decode fields
they hold. -/

namespace Sys2Proof.Machine

/-- The bytes of a room image that its CRC covers: 0..61 and 64..2943 (R188). -/
def roomCovered (img : List Byte) : List Byte := img.take 62 ++ (img.drop 64).take 2880

/-- The bytes of a format image that its CRC covers: 0..29 and 32..303 (R188). -/
def formatCovered (img : List Byte) : List Byte := img.take 30 ++ (img.drop 32).take 272

/-- The image CRC is the one carried (R67). -/
def imageCrcOk : SlotId → List Byte → Bool
  | .room _ _, img => decide ((crc16 (roomCovered img)).toNat = fieldAt img 62 2)
  | .format _, img => decide ((crc16 (formatCovered img)).toNat = fieldAt img 30 2)

/-- The field ranges of a room image (R67): sense lag 0..7; section counts 0..10 and delays 0..2047. -/
def roomRanges (img : List Byte) : Bool :=
  decide (fieldAt img 4 1 ≤ 7) &&
    (List.range 16).all fun k =>
      decide (fieldAt img (64 + 180 * k + 4) 1 ≤ 10) && decide (fieldAt img (64 + 180 * k + 2) 2 ≤ 2047)

/-- The field ranges of a format image (R67): track count 1..8; partners 0..15 or FFh. -/
def formatRanges (img : List Byte) : Bool :=
  decide (1 ≤ fieldAt img 3 1 ∧ fieldAt img 3 1 ≤ 8) &&
    (List.range 16).all fun k => decide (fieldAt img (288 + k) 1 ≤ 15) || decide (fieldAt img (288 + k) 1 = 255)

/-- Every image check of R67 against a target or a slot's own identity. -/
def imageOk (id : SlotId) (img : List Byte) : Bool :=
  match id with
  | .room i _ =>
    decide (fieldAt img 0 1 = 1) && decide (fieldAt img 1 1 = 1) && decide (fieldAt img 2 1 = i.val + 1) &&
      imageCrcOk id img && roomRanges img
  | .format f =>
    decide (fieldAt img 0 1 = 2) && decide (fieldAt img 1 1 = 1) && decide (fieldAt img 2 1 = f.val + 1) &&
      imageCrcOk id img && formatRanges img

/-- The boot flag of an image: bit 0 of byte 3 of a room image (R188); a format image has none. -/
def imageBoot : SlotId → List Byte → Bool
  | .room _ _, img => (byteAt img 3).getLsbD 0
  | .format _, _ => false

/-- The label of an image: 32 bytes from byte 7 of a room image, 16 of a format image (R188). -/
def imageLabel : SlotId → List Byte → List Byte
  | .room _ _, img => (List.range 32).map fun n => byteAt img (7 + n)
  | .format _, img => (List.range 16).map fun n => byteAt img (7 + n)

/-- Section i of the feed record at a place of a room image (R188). -/
def sectionAt (img : List Byte) (at_ i : Nat) : Coeffs :=
  let p := at_ + 28 + 15 * i
  ⟨signedAt img p 3, signedAt img (p + 3) 3, signedAt img (p + 6) 3, signedAt img (p + 9) 3, signedAt img (p + 12) 3⟩

/-- The feed record of feed k of a room image (R188). That bits 7..3 of the action mask, which R188 neither names nor marks
as ignored, are not read is the model's choice (log 36). -/
def feedSetAt (img : List Byte) (k : Nat) : FeedSet :=
  let p := 64 + 180 * k
  { trim := fieldAt img p 2
    delay := fieldAt img (p + 2) 2
    sectionCount := fieldAt img (p + 4) 1
    sections := (List.range 10).map fun i => sectionAt img p i
    protect := (byteAt img (p + 5)).getLsbD 0
    fold := (byteAt img (p + 5)).getLsbD 1
    notify := (byteAt img (p + 5)).getLsbD 2
    overOnset := fieldAt img (p + 6) 3
    overRelease := fieldAt img (p + 9) 3
    overHold := fieldAt img (p + 12) 1
    overReleaseTime := fieldAt img (p + 13) 2
    silence := fieldAt img (p + 15) 4
    silenceHold := fieldAt img (p + 19) 2
    senseFloor := fieldAt img (p + 21) 2
    tolerance := fieldAt img (p + 23) 1
    mismatchHold := fieldAt img (p + 24) 2
    mismatchRelease := fieldAt img (p + 26) 2 }

/-- The working copy a room image holds (R76, R188). -/
def roomOf (img : List Byte) : RoomSet :=
  ⟨fieldAt img 4 1, BitVec.ofNat 16 (fieldAt img 5 2), Vector.ofFn fun k : Fin 16 => feedSetAt img k.val⟩

/-- A fold partner as stored: 0..15, else none (R188). -/
def partnerAt (img : List Byte) (k : Nat) : Option (Fin 16) :=
  if h : fieldAt img (288 + k) 1 < 16 then some ⟨fieldAt img (288 + k) 1, h⟩ else none

/-- The decode fields a format image holds (R22, R188). -/
def formatOf (img : List Byte) : Format where
  trackCount := fieldAt img 3 1
  required := byteAt img 4
  rows := (List.range 16).map fun k => (List.range 8).map fun t => signedAt img (32 + 16 * k + 2 * t) 2
  foldGain := fieldAt img 5 2
  partners := (List.range 16).map (partnerAt img)

/-- The bytes a read delivers: those stored, but for the cells of the upset (log 6). -/
def delivered (u : Upset) (stored : List Byte) : List Byte :=
  (List.range stored.length).map fun n => (List.lookup n u).getD (byteAt stored n)

end Sys2Proof.Machine
end

