-- ==== Sys2Proof/Machine/Store.lean ====
section
/-! DEFINITION. The table store (chapter 4): the port arbiter, commits, format refreshes, and the control lane engine's
fetches and erases. -/

namespace Sys2Proof.Machine

/-! ## The port (R74, R75) -/

/-- Whether a screen's preset load waits for the port (R79, R80). -/
def Screen.loadWaits (x : Screen) : Bool :=
  match x.running with
  | some o => decide (o.stage = .loadWait)
  | none => false

/-- The stage of a screen's running operation changed (R79). -/
def Screen.setStage (x : Screen) (st : Stage) : Screen :=
  { x with running := x.running.map fun o => { o with stage := st } }

/-- The unit the control lane engine's work is granted: an erase's first page write writes the mark OPEN first (R73). -/
def State.grantEngine (s : State) (w : EngineWork) : State :=
  let s1 := { s with port := some ⟨.engine, 0⟩ }
  match w with
  | .erase id 0 => s1.setMark id .opened
  | _ => s1

/-- The unit a waiting commit is granted: the next page write, the first of which writes the mark OPEN first, or after
the last page write the next page verify (R68). -/
def State.grantCommit (s : State) : State :=
  if s.commit.written < s.commit.target.pages then
    let s1 := { s with port := some ⟨.commitWrite, 0⟩, commit := { s.commit with state := .writing } }
    if s.commit.next = 0 then s1.setMark s.commit.target .opened else s1
  else { s with port := some ⟨.commitVerify, 0⟩, commit := { s.commit with state := .verifying } }

/-- The arbiter: a free port is granted to the scan while it runs, else to the waiting work of highest priority (R74). -/
def State.grant (s : State) : State :=
  if s.port.isSome then s
  else if s.scan.isSome then { s with port := some ⟨.scan, 0⟩ }
  else
    match s.findScreen Screen.loadWaits with
    | some i => { s.onScreen i fun x => x.setStage .loading with port := some ⟨.load i, 0⟩ }
    | none =>
      match s.refreshes with
      | f :: rest => { s with port := some ⟨.refresh f, 0⟩, refreshes := rest }
      | [] =>
        match s.engineWork with
        | some w => s.grantEngine w
        | none => if s.commit.state = .waiting then s.grantCommit else s

/-- The port freed at the end of a unit, before the next grant. -/
def State.freePort (s : State) : State := { s with port := none }

/-- The longest a unit lasts, in block periods (R75). -/
def State.unitMax (s : State) : PortWork → Nat
  | .scan => 1
  | .load _ => 3
  | .refresh _ => 1
  | .engine =>
    match s.engineWork with
    | some (.fetch (.room _ _) _) => 3
    | some (.fetch (.format _) _) => 1
    | _ => 6
  | .commitWrite => 6
  | .commitVerify => 1

/-- Whether the unit in progress is of the named kind and has lasted a block period, so that it may end (R75, log 5). -/
def State.unitDue (s : State) (p : PortWork → Bool) : Bool :=
  match s.port with
  | some u => p u.work && decide (1 ≤ u.age)
  | none => false

/-! ## Commits (R66 to R71) -/

/-- The stored image of a slot (R62). -/
def State.slotImage (s : State) (id : SlotId) : List Byte := s.arrayBytes id.base id.imageSize

/-- The staging image for a target (R64). -/
def State.stagedImage (s : State) (id : SlotId) : List Byte := s.stagingBytes 0 id.imageSize

/-- The bytes that belong in page n of a slot: staging bytes, FFh beyond the image's end (R62, R68). -/
def State.stagedPage (s : State) (id : SlotId) (n : Nat) : List Byte :=
  (List.range Config.pageSize).map fun j =>
    if Config.pageSize * n + j < id.imageSize then Memory.read stagingDefault s.staging (Config.pageSize * n + j) else 255

/-- The stored bytes of page n of a slot. -/
def State.storedPage (s : State) (id : SlotId) (n : Nat) : List Byte :=
  s.arrayBytes (id.base + Config.pageSize * n) Config.pageSize

/-- A format slot's cache entry made absent (R26). -/
def State.dropCache (s : State) (id : SlotId) : State :=
  match id with
  | .room _ _ => s
  | .format f => s.setCache (formatCode f) none

/-- A format refresh queued, at most one waiting for each slot (R25, R74). -/
def State.queueRefresh (s : State) (f : Fin 15) : State :=
  if f ∈ s.refreshes then s else { s with refreshes := s.refreshes ++ [f] }

/-- The live set marked STALE whose source is the slot just committed (R77). -/
def State.markStale (s : State) (id : SlotId) : State :=
  match id with
  | .room i n => s.onScreen i fun x => if x.source = .slot n then { x with stale := true } else x
  | .format _ => s

/-- A slot that becomes VALID with its copies taken from an image (R62). -/
def State.validateSlot (s : State) (id : SlotId) (img : List Byte) : State :=
  s.onSlot id fun x => { x with state := .valid, boot := imageBoot id img, label := imageLabel id img }

/-- What the end of a commit does to its slot (R69, R70). -/
def State.commitSlot (s : State) (r : CommitResult) : State :=
  let id := s.commit.target
  match r with
  | .ok =>
    let s1 := ((s.setMark id .closed).validateSlot id (s.stagedImage id)).markStale id
    match id with
    | .room _ _ => s1
    | .format f => s1.queueRefresh f
  | .abandoned =>
    if s.commit.written = 0 then s.onSlot id fun x => { x with state := s.commit.previous }
    else (s.clearSlot id .invalid).dropCache id
  | _ => (s.clearSlot id .invalid).dropCache id

/-- The end of a commit: the slot, the record, the COMMIT-ENDED flag and the STORE notice (R69). -/
def State.endCommit (s : State) (r : CommitResult) : State :=
  let s1 := s.commitSlot r
  { s1 with
    commit := { s.commit with state := .idle, abandon := false, last := r }
    commitEnded := true
    storeNotices := s1.storeNotices ++ [⟨s.commit.target, r⟩] }

/-- The end of a commit's page write (R68, R70). -/
def State.endPageWrite (s : State) : State :=
  let id := s.commit.target
  let c := s.commit
  let s1 := (s.writeArray (id.base + Config.pageSize * c.next) (s.stagedPage id c.next)).freePort
  let s2 := { s1 with commit := { c with
    state := .waiting
    written := c.written + 1
    next := if c.written + 1 < id.pages then c.next + 1 else 0 } }
  if c.abandon then (s2.endCommit .abandoned).grant else s2.grant

/-- The end of a commit's page verify (R68, R70): abandoned, unequal, the next page, or the CRC and the mark CLOSED. That the
whole page is compared, the FFh beyond the image's end included, is the model's choice (log 29). -/
def State.endPageVerify (s : State) (u : Upset) : State :=
  let id := s.commit.target
  let c := s.commit
  let s1 := { s.freePort with commit := { c with state := .waiting } }
  if c.abandon then (s1.endCommit .abandoned).grant
  else if delivered u (s.storedPage id c.next) ≠ s.stagedPage id c.next then (s1.endCommit .verifyFail).grant
  else if c.next + 1 < id.pages then
    State.grant { s1 with commit := { c with state := .waiting, next := c.next + 1 } }
  else if imageCrcOk id (s.stagedImage id) then (s1.endCommit .ok).grant
  else (s1.endCommit .verifyFail).grant

/-! ## Format refreshes (R25) -/

/-- The end of a format refresh: the entry replaced on a good CRC, absent on a bad one; discarded after an erase (R72). -/
def State.endRefresh (s : State) (f : Fin 15) (u : Upset) : State :=
  let img := delivered u (s.slotImage (.format f))
  let s1 := s.freePort
  if s.dropRefresh then State.grant { s1 with dropRefresh := false }
  else if imageCrcOk (.format f) img then (s1.setCache (formatCode f) (some (formatOf img))).grant
  else (s1.setCache (formatCode f) none).grant

/-! ## The control lane engine's store work (R65, R72, R73) -/

/-- The held request ends: its reply is complete and execution is FREE (R176, R178). -/
def State.endHeld (s : State) : State :=
  { s with held := none, replies := s.replies.map fun r => { r with complete := true } }

/-- The end of a STAGE-FETCH copy (R65). -/
def State.endFetch (s : State) (id : SlotId) (offset : Nat) (u : Upset) : State :=
  let s1 := (s.writeStaging offset (delivered u (s.slotImage id))).freePort
  (State.endHeld { s1 with engineWork := none }).grant

/-- The end of an erase page write: the page is FFh; the last one writes the mark BLANK and ends the request (R73). -/
def State.endErasePage (s : State) (id : SlotId) (page : Nat) : State :=
  let s1 := (s.writeArray (id.base + Config.pageSize * page) (List.replicate Config.pageSize 255)).freePort
  if page + 1 < id.pages then State.grant { s1 with engineWork := some (.erase id (page + 1)) }
  else ((State.endHeld { s1 with engineWork := none }).setMark id .blank).grant

/-- What taking a SLOT-ERASE of a VALID or INVALID slot does at once (R72, R26). -/
def State.beginErase (s : State) (id : SlotId) : State :=
  let s1 := (s.clearSlot id .empty).dropCache id
  match id with
  | .room _ _ => s1
  | .format f =>
    { s1 with
      refreshes := s1.refreshes.filter fun g => decide (g ≠ f)
      dropRefresh := s1.dropRefresh || decide (s1.port.map PortUnit.work = some (.refresh f)) }

end Sys2Proof.Machine
end

