-- ==== Sys2Proof/Machine/Presets.lean ====
section
/-! DEFINITION. Preset operations and swaps (section 4.7), the start-up scan and the boot loads (section 4.9), and the end
of whatever unit holds the store port. -/

namespace Sys2Proof.Machine

/-! ## Placing operations (R79, R83) -/

/-- A screen enters FADING-OUT: the swap phase follows and the mute gain's target is recomputed (R81). -/
def State.enterFadeOut (s : State) (i : Fin 12) : State :=
  (s.onScreen i fun x => { x.setStage .fadingOut with phase := .fadingOut, muteZero := false }).recomputeMute i

/-- An operation becomes the running one: a slot waits for the port, SAFE fades out at once (R79). -/
def State.beginOp (s : State) (i : Fin 12) (r : PresetRef) : State :=
  match r with
  | .slot n => (s.onScreen i fun x => { x with running := some ⟨.slot n, .loadWait⟩ }).grant
  | .safe =>
    (s.onScreen i fun x =>
      { x with running := some ⟨.safe, .fadingOut⟩, loadBuf := some ⟨RoomSet.safe, .safe⟩ }).enterFadeOut i

/-- A new operation placed: the running one if none runs, else the pending one (R79). -/
def State.placeOp (s : State) (i : Fin 12) (r : PresetRef) : State :=
  if (s.screen i).running.isNone then s.beginOp i r else s.onScreen i fun x => { x with waiting := some r }

/-- A screen's boot choice from its four room slot records (R83). -/
def State.bootChoice (s : State) (i : Fin 12) : PresetRef :=
  match (List.finRange 4).find? fun n => decide ((s.slot (.room i n)).state = .valid) && (s.slot (.room i n)).boot with
  | some n => .slot n
  | none => if (s.slot (.room i 0)).state = .valid then .slot 0 else .safe

/-- Whether a slot is protected by its screen's operations (R79): the pending one, or a running one in LOAD-WAIT, LOADING
or FADING-OUT. -/
def State.slotProtected (s : State) (id : SlotId) : Bool :=
  match id with
  | .format _ => false
  | .room i n =>
    decide ((s.screen i).waiting = some (.slot n)) ||
      match (s.screen i).running with
      | some o => decide (o.ref = .slot n ∧ o.stage ≠ .fadingIn)
      | none => false

/-! ## The replacement of a live set (R81) -/

/-- A feed at the replacement: filters, delay line and protect record zeroed, out of the fold set (R50, R81). -/
def Feed.replaced (y : Feed) : Feed :=
  { y with biquads := zeroBiquads, delay := zeroDelay, protect := ⟨0, 0, 0⟩, folded := false }

/-- A screen taking its load buffer's content as its live set (R81). -/
def Screen.install (x : Screen) (b : LoadBuffer) : Screen :=
  { x.mapFeeds fun _ y => y.replaced with live := b.room, source := b.source, loadBuf := none, stale := false }

/-- Steps 1 to 7 of a replacement; the CLEARED transitions are reported under the live set being replaced (R81, R106). -/
def State.replaceLive (s : State) (i : Fin 12) (b : LoadBuffer) : State :=
  ((s.swapSources i).onScreen i fun x => x.install b).rebuild i

/-- The replacement at the bottom of a swap, which then fades in (R81, R82). -/
def State.swapLive (s : State) (i : Fin 12) : State :=
  match (s.screen i).loadBuf with
  | none => s
  | some b =>
    ((s.replaceLive i b).onScreen i fun x =>
      { x.setStage .fadingIn with phase := .fadingIn, fadeIn := 0, muteZero := false }).recomputeMute i

/-- Whether a screen's replacement is due: FADING-OUT, with a mute-zero indication handed (R61, R81). -/
def Screen.swapDue (x : Screen) : Bool := x.muteZero && decide (x.phase = .fadingOut)

/-- The replacement, where it is due. -/
def State.takeMuteZero (s : State) (i : Fin 12) : State := if (s.screen i).swapDue then s.swapLive i else s

/-- The end of a swap: the phase is NONE, the target is recomputed, a pending operation begins (R82). -/
def State.endSwap (s : State) (i : Fin 12) : State :=
  let s1 := (s.onScreen i fun x =>
    { x with running := none, phase := .none, fadeIn := 0, waiting := none }).recomputeMute i
  match (s.screen i).waiting with
  | some r => s1.beginOp i r
  | none => s1

/-- Whether 12 boundaries have passed since the replacement, so that the operation is to end (R82). -/
def Screen.swapEndDue (x : Screen) : Bool := decide (x.phase = .fadingIn) && decide (Config.swapBlocks ≤ x.fadeIn)

/-- The end of a swap, where it is due. -/
def State.takeSwapEnd (s : State) (i : Fin 12) : State := if (s.screen i).swapEndDue then s.endSwap i else s

/-- A screen's fade-in count at a block boundary, and at the 12th the end of the swap (R82, log 28). -/
def State.fadeInStep (s : State) (i : Fin 12) : State :=
  if (s.screen i).phase = .fadingIn then (s.onScreen i fun x => { x with fadeIn := x.fadeIn + 1 }).takeSwapEnd i else s

/-! ## Start-up (R86 to R88) -/

/-- The device becomes RUNNING: every mute gain target is recomputed (R60). -/
def State.becomeRunning (s : State) : State :=
  State.forScreens { s with device := .running } fun i t => t.recomputeMute i

/-- The device becomes RUNNING once no boot load is left (R88). -/
def State.bootDone (s : State) : State :=
  if (s.findScreen fun x => x.running.isSome).isSome then s else s.becomeRunning

/-- Each screen's boot choice made: a slot has its boot load placed at priority 1 (R88). -/
def State.placeBootLoads (s : State) : State :=
  s.forScreens fun i t =>
    match t.bootChoice i with
    | .slot n => t.onScreen i fun x => { x with running := some ⟨.slot n, .loadWait⟩ }
    | .safe => t

/-- The slot at a place of the scan order: format slots 1 to 15, then room slots screen by screen (R87). -/
def scanSlot (p : Fin 63) : SlotId :=
  if h : p.val < 15 then .format ⟨p.val, h⟩
  else .room ⟨(p.val - 15) / 4, by omega⟩ ⟨(p.val - 15) % 4, by omega⟩

/-- The classification of a slot from its mark and the image read (R63, R87); a VALID format enters the cache (R24). -/
def State.classify (s : State) (id : SlotId) (img : List Byte) : State :=
  match (s.slot id).mark with
  | .blank => s.clearSlot id .empty
  | .opened => s.clearSlot id .invalid
  | .closed =>
    if imageOk id img then
      match id with
      | .room _ _ => s.validateSlot id img
      | .format f => (s.validateSlot id img).setCache (formatCode f) (some (formatOf img))
    else s.clearSlot id .invalid

/-- The scan's place after a slot has been classified: the next slot, or the boot choices (R87, R88). -/
def State.scanNext (s : State) (p : Fin 63) : State :=
  if h : p.val + 1 < 63 then State.grant { s with scan := some ⟨⟨p.val + 1, h⟩, 0⟩, scanBuf := [] }
  else (State.placeBootLoads { s with scan := none, scanBuf := [] }).bootDone.grant

/-- The end of a scan unit: one page read, and after a slot's last page its classification (R87). -/
def State.endScanPage (s : State) (c : Scan) (u : Upset) : State :=
  let id := scanSlot c.place
  let buf := s.scanBuf ++ delivered u (s.storedPage id c.page)
  let s1 := s.freePort
  if c.page + 1 < id.pages then State.grant { s1 with scan := some ⟨c.place, c.page + 1⟩, scanBuf := buf }
  else (s1.classify id (buf.take id.imageSize)).scanNext c.place

/-! ## Preset loads (R80, R88) -/

/-- What a load leaves in the load buffer: the image on a good CRC, the SAFE set on a bad one (R80). -/
def loadResult (id : SlotId) (n : Fin 4) (img : List Byte) : LoadBuffer :=
  if imageCrcOk id img then ⟨roomOf img, .slot n⟩ else ⟨RoomSet.safe, .safe⟩

/-- A boot load's result installed at once during STARTING (R88). -/
def State.installBoot (s : State) (i : Fin 12) (b : LoadBuffer) : State :=
  ((s.replaceLive i b).onScreen i fun x => { x with running := none }).bootDone

/-- The end of a preset load's read (R80); while STARTING its result is installed at once (R88). -/
def State.endLoad (s : State) (i : Fin 12) (u : Upset) : State :=
  match (s.screen i).running with
  | some ⟨.slot n, _⟩ =>
    let b := loadResult (.room i n) n (delivered u (s.slotImage (.room i n)))
    let s1 := s.freePort
    if s.device = .starting then (s1.installBoot i b).grant
    else ((s1.onScreen i fun x => { x with loadBuf := some b }).enterFadeOut i).grant
  | _ => s.freePort.grant

/-! ## The end of the unit in progress -/

/-- The end of the unit that holds the port, whatever it is (R74, R75). -/
def State.endUnit (s : State) (u : Upset) : State :=
  match s.port with
  | none => s
  | some p =>
    match p.work with
    | .scan => match s.scan with
      | some c => s.endScanPage c u
      | none => s.freePort.grant
    | .load i => s.endLoad i u
    | .refresh f => s.endRefresh f u
    | .engine => match s.engineWork with
      | some (.fetch id offset) => s.endFetch id offset u
      | some (.erase id page) => s.endErasePage id page
      | none => s.freePort.grant
    | .commitWrite => s.endPageWrite
    | .commitVerify => s.endPageVerify u

/-- A unit that has lasted its longest time ends at the boundary at the latest (R75, log 5). -/
def State.overdueUnit (s : State) : State :=
  match s.port with
  | some p => if s.unitMax p.work ≤ p.age then s.endUnit [] else s
  | none => s

/-- One more period opens with the unit in progress at the port (R75, log 5). -/
def State.ageUnit (s : State) : State := { s with port := s.port.map fun p => { p with age := p.age + 1 } }

end Sys2Proof.Machine
end

