-- ==== Sys2Proof/Machine/CueEngine.lean ====
section
/-! DEFINITION. Cue execution (chapter 9): position events, continuous advance, discontinuities with chase and landing, and
the actions. -/

namespace Sys2Proof.Machine

/-- A position event (R19). -/
structure PositionEvent where
  pos : Position
  previous : Option Position
  rate : Fin 4
  rateChanged : Bool
  dropouts : Nat
deriving DecidableEq, Repr

/-- The block count of a position at b blocks per frame (R150). -/
def Position.blocks (p : Position) (b : Nat) : Nat := p.frame * b + p.block

/-- The position n blocks after p at b blocks per frame, carrying into the frame (R150). -/
def Position.after (p : Position) (n b : Nat) : Position := ⟨(p.blocks b + n) / b, (p.blocks b + n) % b⟩

/-- Whether an event is continuous for an engine (R150). -/
def Screen.continuous (x : Screen) (e : PositionEvent) : Bool :=
  x.tracking && !e.rateChanged &&
    match e.previous with
    | some p => decide (e.pos = p.after (1 + e.dropouts) (blocksPerFrame e.rate))
    | none => false

/-- A set or pulse of a cue: taken by an owned CUE line, else the cue fails (R157). -/
def State.fireLine (s : State) (i : Fin 12) (n : Fin 24) (on : Bool) (pulse : Nat) : State :=
  if s.lineTakes n i then s.driveLine n on pulse else s.cueFails i

/-- A PRESET cue: an operation for a VALID slot, else the cue fails (R159). -/
def State.firePreset (s : State) (i : Fin 12) (n : Fin 4) : State :=
  if (s.slot (.room i n)).state = .valid then s.placeOp i (.slot n) else s.cueFails i

/-- A FORMAT cue: a cached format is set, RELEASE releases, an absent entry fails the cue (R30, R158). -/
def State.fireFormat (s : State) (i : Fin 12) (c : Option (Fin 16)) : State :=
  match c with
  | none => s.setOverride i none
  | some f => if (s.cache[f]).isSome then s.setOverride i (some f) else s.cueFails i

/-- A MARK cue: a notice at the tail of the queue, or a failure where 16 notices stand in it (R160). -/
def State.fireMark (s : State) (i : Fin 12) (id code : Nat) (cuePos fired : Position) : State :=
  if s.marks.length < Config.markPlaces then { s with marks := s.marks ++ [⟨i, id, code, cuePos, fired⟩] }
  else s.cueFails i

/-- A cue's action handed to its owner; `fired` is the new position of the event (R157 to R160). -/
def State.fireCue (s : State) (i : Fin 12) (fired : Position) (c : Cue) : State :=
  match c.action with
  | .lineSet n on => s.fireLine i n on 0
  | .linePulse n d => s.fireLine i n true d
  | .fade target duration => s.loadMaster i target duration
  | .preset n => s.firePreset i n
  | .format f => s.fireFormat i f
  | .mute => s.setMuted i true
  | .unmute => s.setMuted i false
  | .mark code => s.fireMark i c.id code c.pos fired

/-- The block count of a chased cue: (frame + 1) × b where its block index is b or more (R153). -/
def Cue.blocks (c : Cue) (b : Nat) : Nat := if c.pos.block < b then c.pos.blocks b else (c.pos.frame + 1) * b

/-- The count a chased FADE loads: what remains of it after the landing, 0 if it ended at or before it (R153). -/
def Cue.fadeLeft (c : Cue) (duration : Nat) (landing : Position) (b : Nat) : Nat :=
  (c.blocks b + duration) - landing.blocks b

/-- A cue applied by the chase: a FADE by what remains of it, any other action as if fired (R153, R154). -/
def State.chaseCue (s : State) (i : Fin 12) (landing : Position) (b : Nat) (c : Cue) : State :=
  match c.action with
  | .fade target duration => s.loadMaster i target (c.fadeLeft duration landing b)
  | _ => s.fireCue i landing c

/-- Of a list of cues, for each chase key the last, in list order (R152). -/
def lastOfKeys : List Cue → List Cue
  | [] => []
  | c :: rest =>
    if rest.any fun d => decide (d.action.key = c.action.key) then lastOfKeys rest else c :: lastOfKeys rest

/-- The cues a chase to a landing selects: STATE cues before it, the last of each key (R152). -/
def chased (l : List Cue) (landing : Position) : List Cue :=
  lastOfKeys (l.filter fun c => c.isState && c.pos.before landing)

/-- The cues a continuous event fires: from the pointer on, up to its new position (R151). -/
def Screen.passed (x : Screen) (p : Position) : List Cue := (x.cues.drop x.pointer).takeWhile fun c => c.pos.upTo p

/-- The pointer for a last processed position: the index of the first cue after it (R151, R155). -/
def pointerFor (l : List Cue) (p : Position) : Nat := (l.takeWhile fun c => c.pos.upTo p).length

/-- What an event leaves in the engine (R151, R155). -/
def Screen.arrive (x : Screen) (p : Position) : Screen :=
  { x with tracking := true, enginePos := some p, pointer := pointerFor x.cues p }

/-- A continuous event fires the passed cues in list order (R151). -/
def State.advance (s : State) (i : Fin 12) (e : PositionEvent) : State :=
  (((s.screen i).passed e.pos).foldl (fun t c => t.fireCue i e.pos c) s).onScreen i fun x => x.arrive e.pos

/-- A discontinuity chases, fires the cues at the landing, and sets the engine's state (R152, R155, R156). -/
def State.land (s : State) (i : Fin 12) (e : PositionEvent) : State :=
  let s1 := (chased (s.screen i).cues e.pos).foldl (fun t c => t.chaseCue i e.pos (blocksPerFrame e.rate) c) s
  let s2 := ((s.screen i).cues.filter fun c => decide (c.pos = e.pos)).foldl (fun t c => t.fireCue i e.pos c) s1
  s2.onScreen i fun x => x.arrive e.pos

/-- The taking of a position event (R150). -/
def State.takePosition (s : State) (i : Fin 12) (e : PositionEvent) : State :=
  if (s.screen i).continuous e then s.advance i e else s.land i e

end Sys2Proof.Machine
end

