-- ==== Sys2Proof/Machine/Operands.lean ====
section
/-! DEFINITION. The operand forms of the requests: kinds, body lengths, slot references, cue records and line
configurations as R187 codes them. -/

namespace Sys2Proof.Machine

/-- The request kinds of R187. -/
inductive RequestKind where
  | status
  | slotInfo
  | stageClear
  | stageWrite
  | stageRead
  | stageFetch
  | commit
  | commitAbandon
  | slotErase
  | presetSelect
  | formatOverride
  | screenMute
  | masterSet
  | cueInsert
  | cueDelete
  | cueClear
  | cueTagRange
  | cueUntag
  | cueDeleteTagged
  | cueListRead
  | lineConfig
  | lineDrive
  | meterRead
  | alarmRead
  | alarmAcknowledge
  | feedRestore
  | protectReset
  | lockSet
  | lockClear
  | screenRestart
deriving DecidableEq, Repr

/-- The request kind of a kind code; none for reply and notice kinds and unassigned codes (R177, R187). -/
def kindOf (b : Byte) : Option RequestKind :=
  match b.toNat with
  | 0x01 => some .status
  | 0x02 => some .slotInfo
  | 0x03 => some .stageClear
  | 0x04 => some .stageWrite
  | 0x05 => some .stageRead
  | 0x06 => some .stageFetch
  | 0x07 => some .commit
  | 0x08 => some .commitAbandon
  | 0x09 => some .slotErase
  | 0x0A => some .presetSelect
  | 0x0B => some .formatOverride
  | 0x0C => some .screenMute
  | 0x0D => some .masterSet
  | 0x0E => some .cueInsert
  | 0x0F => some .cueDelete
  | 0x10 => some .cueClear
  | 0x11 => some .cueTagRange
  | 0x12 => some .cueUntag
  | 0x13 => some .cueDeleteTagged
  | 0x14 => some .cueListRead
  | 0x15 => some .lineConfig
  | 0x16 => some .lineDrive
  | 0x17 => some .meterRead
  | 0x18 => some .alarmRead
  | 0x19 => some .alarmAcknowledge
  | 0x1A => some .feedRestore
  | 0x1B => some .protectReset
  | 0x1C => some .lockSet
  | 0x1D => some .lockClear
  | 0x1E => some .screenRestart
  | _ => none

/-- Whether a kind admits a body length (R177, R187). -/
def RequestKind.admits (k : RequestKind) (n : Nat) : Bool :=
  match k with
  | .status | .stageClear | .commitAbandon | .cueClear | .cueDeleteTagged | .meterRead | .alarmRead
  | .alarmAcknowledge | .protectReset | .lockSet | .lockClear | .screenRestart => decide (n = 0)
  | .presetSelect | .formatOverride | .screenMute | .cueListRead | .feedRestore => decide (n = 1)
  | .slotInfo | .commit | .slotErase | .cueDelete | .cueUntag => decide (n = 2)
  | .stageRead | .stageFetch | .masterSet | .lineDrive => decide (n = 4)
  | .stageWrite => decide (2 ≤ n ∧ n ≤ 234)
  | .lineConfig => decide (n = 7)
  | .cueTagRange => decide (n = 8)
  | .cueInsert => decide (n = 12)

/-- The screen a header's screen field names: 1..12 (R187). -/
def screenOf (b : Byte) : Option (Fin 12) :=
  if h : 1 ≤ b.toNat ∧ b.toNat ≤ 12 then some ⟨b.toNat - 1, by omega⟩ else none

/-- The slot a slot reference names: a room slot of the header's screen, or a format slot (R187). -/
def slotRefOf (screen kind num : Byte) : Option SlotId :=
  if kind = 1 then
    match screenOf screen with
    | some i => if h : num.toNat < 4 then some (.room i ⟨num.toNat, h⟩) else none
    | none => none
  else if kind = 2 then
    if h : 1 ≤ num.toNat ∧ num.toNat ≤ 15 then some (.format ⟨num.toNat - 1, by omega⟩) else none
  else none

/-- The slot that the first two bytes of a message's body name (R187). -/
def Message.slotRef (m : Message) : Option SlotId := slotRefOf m.screen (byteAt m.body 0) (byteAt m.body 1)

/-- A line number: 1..24 (R135, R170). -/
def lineOf (n : Nat) : Option (Fin 24) := if h : 1 ≤ n ∧ n ≤ 24 then some ⟨n - 1, by omega⟩ else none

/-- A format code: 0..15. -/
def codeOf (n : Nat) : Option (Fin 16) := if h : n < 16 then some ⟨n, h⟩ else none

/-- The action that an action code and the parameters A and B carry, for a class; none if a parameter is out of range or
the class is not one the action allows (R135, R141, R187). -/
def actionOf (code : Nat) (isState : Bool) (a b : Nat) : Option CueAction :=
  match code with
  | 1 => match lineOf a with
    | some n => if b ≤ 1 then some (.lineSet n (decide (b = 1))) else none
    | none => none
  | 2 => match lineOf a with
    | some n => if 1 ≤ b ∧ isState = false then some (.linePulse n b) else none
    | none => none
  | 3 => some (.fade a b)
  | 4 => if h : a < 4 then some (.preset ⟨a, h⟩) else none
  | 5 => if a = 65535 then some (.format none) else (codeOf a).map fun c => .format (some c)
  | 6 => some .mute
  | 7 => some .unmute
  | 8 => if isState = false then some (.mark a) else none
  | _ => none

/-- The cue that a CUE-INSERT body carries; none where the first check of R141 or the flag bits of R187 fail. -/
def cueOf (body : List Byte) : Option Cue :=
  let id := fieldAt body 0 2
  let flags := byteAt body 6
  let isState := flags.getLsbD 0
  if 1 ≤ id ∧ fieldAt body 5 1 ≤ 49 ∧ flags.toNat ≤ 1 then
    (actionOf (fieldAt body 7 1) isState (fieldAt body 8 2) (fieldAt body 10 2)).map fun act =>
      ⟨id, positionAt body 2, isState, act, 0, false⟩
  else none

/-- The bytes of an action: code, parameter A, parameter B; a parameter it does not use is 0 (R187). -/
def CueAction.bytes : CueAction → List Byte
  | .lineSet n on => toBytes 1 1 ++ toBytes 2 (n.val + 1) ++ toBytes 2 (if on then 1 else 0)
  | .linePulse n d => toBytes 1 2 ++ toBytes 2 (n.val + 1) ++ toBytes 2 d
  | .fade t d => toBytes 1 3 ++ toBytes 2 t ++ toBytes 2 d
  | .preset n => toBytes 1 4 ++ toBytes 2 n.val ++ toBytes 2 0
  | .format (some c) => toBytes 1 5 ++ toBytes 2 c.val ++ toBytes 2 0
  | .format none => toBytes 1 5 ++ toBytes 2 65535 ++ toBytes 2 0
  | .mute => toBytes 1 6 ++ toBytes 2 0 ++ toBytes 2 0
  | .unmute => toBytes 1 7 ++ toBytes 2 0 ++ toBytes 2 0
  | .mark c => toBytes 1 8 ++ toBytes 2 c ++ toBytes 2 0

/-- A cue record as CUE-LIST-READ carries it, 16 bytes (R187). That bits 6..1 of byte 6, which R187 names for CUE-INSERT
only, are 0 as read back is the model's choice (log 36). -/
def Cue.bytes (c : Cue) : List Byte :=
  toBytes 2 c.id ++ positionBytes c.pos ++
    toBytes 1 ((if c.isState then 1 else 0) + (if c.tagged then 128 else 0)) ++ c.action.bytes ++ toBytes 4 c.number

/-- A line source's code (R187). -/
def lineSourceOf (n : Nat) : Option LineSource :=
  match n with
  | 0 => some .none
  | 1 => some .cue
  | 2 => some .alarmLive
  | 3 => some .alarmLatched
  | 4 => some .trunk
  | 5 => some .forced
  | _ => none

/-- A flag's code: 00h or 01h (R187). -/
def flagOf (n : Nat) : Option Bool :=
  match n with
  | 0 => some false
  | 1 => some true
  | _ => none

/-- A blink setting's code (R187). -/
def blinkOf (n : Nat) : Option Blink :=
  match n with
  | 0 => some .steady
  | 1 => some .slow
  | 2 => some .fast
  | _ => none

/-- The owner a source asks for: a screen for CUE and the alarm sources, none for the others (R170). -/
def ownerOf (src : LineSource) (b : Byte) : Option (Option (Fin 12)) :=
  match src with
  | .cue | .alarmLive | .alarmLatched => (screenOf b).map some
  | .none | .trunk | .forced => if b = 0 then some none else none

/-- The line and the configuration, with cleared running state, that a LINE-CONFIG body carries (R170). -/
def lineConfigOf (body : List Byte) : Option (Fin 24 × Line) :=
  match lineOf (fieldAt body 0 1), lineSourceOf (fieldAt body 2 1), flagOf (fieldAt body 3 1),
    flagOf (fieldAt body 4 1), blinkOf (fieldAt body 6 1) with
  | some n, some src, some forced, some low, some blink =>
    (ownerOf src (byteAt body 1)).map fun owner =>
      (n, ⟨owner, src, forced, low, fieldAt body 5 1, blink, false, false, 0, 0, 0⟩)
  | _, _, _, _, _ => none

/-- What a LINE-DRIVE asks of a line: the cue level, and the pulse timer (0 for a set) (R169, R171). -/
def lineDriveOf (body : List Byte) : Option (Fin 24 × Bool × Nat) :=
  match lineOf (fieldAt body 0 1), fieldAt body 1 1 with
  | some n, 0 => some (n, false, 0)
  | some n, 1 => some (n, true, 0)
  | some n, 2 => if 1 ≤ fieldAt body 2 2 then some (n, true, fieldAt body 2 2) else none
  | _, _ => none

end Sys2Proof.Machine
end

