-- ==== Sys2Proof/Machine/Flags.lean ====
section
/-! DEFINITION. The status byte of a reply, the coded states of reports and summaries, and the result data of every
request that carries any (R20, R21, R179, R187). -/

namespace Sys2Proof.Machine

/-- At most eight flags as a byte, bit 0 first. That the bits above the flags given, to which no table of R186 and R187 gives
a meaning, are sent as 0 is the model's choice (log 36). -/
def packBits (l : List Bool) : Byte := BitVec.ofNat 8 (l.foldr (fun b acc => (if b then 1 else 0) + 2 * acc) 0)

/-- The status byte as a reply leaves (R179, R187). -/
def State.statusByte (s : State) (tagReset : Bool) : Byte :=
  packBits [s.laneLoss, s.crcReject, s.overrun, s.commitEnded, decide (s.device = .starting),
    decide (s.commit.state ≠ .idle), !s.alarms.isEmpty, tagReset]

/-- The event flags cleared, as a status byte carries them (R179). -/
def State.clearEvents (s : State) : State :=
  { s with laneLoss := false, crcReject := false, overrun := false, commitEnded := false }

/-- The code of an outcome (R187). -/
def Verdict.code : Verdict → Byte
  | .done => 0x00
  | .accepted => 0x01
  | .busy => 0x10
  | .locked => 0x11
  | .refusedRange => 0x12
  | .refusedState => 0x13
  | .refusedFull => 0x14
  | .refusedExists => 0x15
  | .refusedUnknown => 0x16
  | .badImage => 0x17
  | .badLength => 0x18
  | .unknownKind => 0x19
  | .starting => 0x1A

/-- The code of a lock state in STATUS (R187). -/
def Lock.code : Lock → Byte
  | .seek => 0
  | .confirm => 1
  | .locked => 2

/-- The code of a program state, which R186 gives for the return block's summary; that STATUS sends the same is the model's
choice (log 32). -/
def ProgramState.code : ProgramState → Byte
  | .absent => 0
  | .stopped => 1
  | .paused => 2
  | .playing => 3
  | .dropout => 4

/-- The code of a commit record's state (R187). -/
def CommitState.code : CommitState → Byte
  | .idle => 0
  | .waiting => 1
  | .writing => 2
  | .verifying => 3

/-- The code of a commit's result (R187). -/
def CommitResult.code : CommitResult → Byte
  | .ok => 0
  | .verifyFail => 1
  | .abandoned => 2
  | .none => 0xFF

/-- The code of a slot state (R187). -/
def SlotState.code : SlotState → Byte
  | .empty => 0
  | .valid => 1
  | .invalid => 2
  | .writing => 3

/-- The code of a source's state (R187). -/
def SourceState.code : SourceState → Nat
  | .clear => 0
  | .onset => 1
  | .active => 2
  | .release => 3

/-- The code of a fold state (R187). -/
def FoldState.code : FoldState → Nat
  | .none => 0
  | .folded => 1
  | .dropped => 2

/-- The code of a live set's source (R187). -/
def PresetRef.code : PresetRef → Byte
  | .slot n => BitVec.ofNat 8 n.val
  | .safe => 0xFF

/-- A slot reference as it is sent (R187). -/
def SlotId.bytes : SlotId → List Byte
  | .room _ n => toBytes 1 1 ++ toBytes 1 n.val
  | .format f => toBytes 1 2 ++ toBytes 1 (f.val + 1)

/-- The header screen of a slot's notice: the room slot's screen, 0 for a format (R187). -/
def SlotId.screenByte : SlotId → Byte
  | .room i _ => BitVec.ofNat 8 (i.val + 1)
  | .format _ => 0

/-- STATUS's four bytes for a screen (R179, R187). R187 gives the program state no code here: that it has the one R186 gives
for the summary is the model's choice (log 32). Bits 7..2 of the flags, which R187 does not name, are 0 (log 36). -/
def Screen.statusBytes (x : Screen) : List Byte :=
  [x.tracker.state.code, flagByte x.tracking, x.source.code, packBits [x.stale, x.showLock]]

/-- STATUS's result data, 57 bytes (R179, R187). -/
def State.statusData (s : State) : List Byte :=
  [flagByte (decide (s.device = .running)), s.prog.state.code, s.sense.state.code] ++ toBytes 2 s.integrityCount ++
    [flagByte s.lockLost, s.commit.state.code, s.commit.last.code] ++ toBytes 1 s.alarms.length ++
    (List.finRange 12).flatMap fun i => (s.screen i).statusBytes

/-- SLOT-INFO's result data (R180, R187). That the boot flag byte of a format slot is 00h is the model's choice (log 31). -/
def Slot.infoData (x : Slot) : List Byte := [x.state.code, flagByte x.boot] ++ x.label

/-- METER-READ's thirteen bytes for a feed (R181, R187). -/
def Feed.meterBytes (y : Feed) : List Byte :=
  toBytes 3 y.meter.hold ++ toBytes 4 y.meter.level ++ toBytes 2 y.meter.lastSense ++ toBytes 2 y.meter.clips ++
    toBytes 1 y.protect.step ++
    toBytes 1 (y.overload.state.code + 4 * y.silent.state.code + 16 * y.mismatch.state.code + 64 * y.fold.code)

/-- METER-READ's result data, 208 bytes (R181, R187). -/
def Screen.meterData (x : Screen) : List Byte := (List.finRange 16).flatMap fun k => (x.feed k).meterBytes

/-- A source's report status: QUEUED, DEFERRED or NONE (R133, R187). -/
def State.reportStatus (s : State) (id : SourceId) : Nat :=
  if s.queued id then 1 else if (s.source id).unreported then 2 else 0

/-- ALARM-READ's byte for a source (R133, R187). That bits 7..5, which R187 does not name, are 0 is the model's choice (log
36). -/
def State.alarmByte (s : State) (id : SourceId) : Byte :=
  BitVec.ofNat 8 ((s.source id).state.code + (if (s.source id).latched then 4 else 0) + 8 * s.reportStatus id)

/-- CUE-LIST-READ's result data from a start index (R148, R187). -/
def State.cueListData (s : State) (i : Fin 12) (start : Nat) : List Byte :=
  let x := s.screen i
  toBytes 2 x.cues.length ++ toBytes 2 s.freeCues ++ [flagByte x.tracking] ++ toBytes 2 x.pointer ++ toBytes 1 start ++
    ((x.cues.drop start).take 14).flatMap Cue.bytes

/-- LINE-DRIVE's result data (R171, R187). -/
def Line.driveData (l : Line) : List Byte :=
  [flagByte l.cueLevel, flagByte l.level] ++ toBytes 2 l.pulse ++ toBytes 2 l.stretchTimer

/-- A screen's summary in the return block, two bytes (R20, R186). Bits 7..3 of the second, which R186 does not name, are 0
(log 36). -/
def State.summaryBytes (s : State) (i : Fin 12) : List Byte :=
  let x := s.screen i
  [x.tracker.state.code, packBits [decide (x.source = .safe), s.anyActive i, x.tracking]]

/-- Whether the samples placed on FEED OUT in the period are zeros: PROGRAM IN not LOCKED, or the device STARTING (R11,
R51, R90). That the two are read as the period opens is the model's choice (log 22). -/
def State.silentPeriod (s : State) : Bool := !s.periodLocked || s.periodStarting

/-- A screen's status byte in the feed block: muted and SAFE (R21, R186). Bits 7..2, which R186 does not name, are 0 (log
36). -/
def State.feedStatus (s : State) (i : Fin 12) : Byte :=
  let x := s.screen i
  packBits [s.silentPeriod || decide (x.mute.current = 0), decide (x.source = .safe)]

end Sys2Proof.Machine
end

