-- ==== Sys2Proof/Machine/Meters.lean ====
section
/-! DEFINITION. The block meter and the sense pairing (sections 5.1, 5.2 and 5.4). -/

namespace Sys2Proof.Machine

/-- The block peak: the largest magnitude among the samples (R90). -/
def blockPeak (l : List Sample) : Nat := l.foldl (fun p y => max p y.value.natAbs) 0

/-- The block energy: floor of the sum of the squares of floor(y / 256), divided by 40 (R91). -/
def blockEnergy (l : List Sample) : Nat :=
  ((l.map fun (y : Sample) => (y.value / 256) * (y.value / 256)).sum / 40).toNat

/-- The level after a block of energy E: L - floor(L / 16) + floor(E / 16) (R91). -/
def nextLevel (level energy : Nat) : Nat := level - level / 16 + energy / 16

/-- The level code: min(65535, L >> 14) (R92). -/
def levelCode (level : Nat) : Nat := min 65535 (level / 16384)

/-- A level code filed in a ring under a sequence number: an entry already there is removed, the oldest of 17 leaves (R92).
The newest entry stands first. R92 says of a number refiled that the ring then holds fewer than 16 entries, while the two
steps it gives (one entry removed, one added) leave a full ring with 16: that the steps are followed, and no further entry
leaves, is the model's choice (log 35). -/
def fileCode (ring : List (Half × Nat)) (seq : Half) (code : Nat) : List (Half × Nat) :=
  ((seq, code) :: ring.filter fun e => decide (e.1 ≠ seq)).take Config.ringSize

/-- A feed's meter record after a block (R90 to R93, R52). -/
def Meter.block (m : Meter) (l : List Sample) (seq : Half) : Meter :=
  let p := blockPeak l
  let level := nextLevel m.level (blockEnergy l)
  { m with
    peak := p
    hold := max m.hold p
    level := level
    code := levelCode level
    clips := min 65535 (m.clips + (l.filter Sample.clip).length)
    ring := fileCode m.ring seq (levelCode level) }

/-- The raw condition of a feed's OVER source, by its state before the step (R100). -/
def overRaw (f : FeedSet) (st : SourceState) (peak : Nat) : Bool :=
  match st with
  | .clear | .onset => decide (0 < f.overOnset ∧ f.overOnset ≤ peak)
  | .active | .release => decide (f.overRelease ≤ peak)

/-- The raw condition of a feed's SILENT source (R101). That 'the device is RUNNING' is read as the period opens is the
model's choice (log 22). -/
def State.silentRaw (s : State) (i : Fin 12) (k : Fin 16) : Bool :=
  decide (0 < (s.feedSet i k).silence) && !s.periodStarting &&
    decide ((s.screen i).tracker.state = .playing) && !(s.screen i).out k &&
    decide ((s.feed i k).meter.level < (s.feedSet i k).silence)

/-- A feed's block: decode, feed chain, output and meter record (R39, R42, R51, R90). -/
def State.chainFeed (s : State) (i : Fin 12) (k : Fin 16) : State :=
  let x := s.screen i
  let r := x.feedBlock (s.formatFor x.handed.effectiveCode) k
  let l := placeOut s.silentPeriod r.1
  s.onFeed i k fun y =>
    { y with
      biquads := r.2.biquads
      delay := r.2.delay
      out := l.map Sample.value
      meter := y.meter.block l s.outSeq }

/-- The raw condition of a feed's MISMATCH source at a paired step (R102). -/
def mismatchRaw (f : FeedSet) (locked fault : Bool) (code sense : Nat) : Bool :=
  decide (0 < f.tolerance) && locked &&
    (fault || (decide (f.senseFloor ≤ code) && decide (sense * 256 < code * f.tolerance)))

/-- The level code filed under a sequence number (R94). -/
def ringFind (ring : List (Half × Nat)) (seq : Half) : Option Nat := (ring.find? fun e => decide (e.1 = seq)).map Prod.snd

/-- The raw condition of a MISMATCH step at a sense block with a sequence number, from the feed's last sense code and fault
flag: none where the step is held, the feed folded or the entry not in the ring (R94, R102, R117). -/
def State.pairedRaw (s : State) (seq : Half) (i : Fin 12) (k : Fin 16) : Option Bool :=
  let y := s.feed i k
  if y.folded then none
  else
    (ringFind y.meter.ring (seq - BitVec.ofNat 16 (s.screen i).live.senseLag)).map fun lc =>
      mismatchRaw (s.feedSet i k) (decide (s.sense.state = .locked)) y.senseFault lc y.meter.lastSense

/-- The raw condition of a source as it stands, none where its step is held: the feed's last block for OVER and SILENT
(R100, R101), the last sense block taken for MISMATCH while SENSE IN is LOCKED (R13, R102), the block handed, the tracker,
the live set (R103), the lock states (R11, R13, R105). CUE has none (R104). That SENSELINK's step of a period takes the lock
state of SENSE IN at the period's end is the model's choice (log 22). -/
def State.rawOf (s : State) : SourceId → Option Bool
  | .overload i k => some (overRaw (s.feedSet i k) (s.feed i k).overload.state (s.feed i k).meter.peak)
  | .silent i k => some (s.silentRaw i k)
  | .mismatch i k =>
    match s.sense.lastGood with
    | some seq => if s.sense.state = .locked then s.pairedRaw seq i k else none
    | none => none
  | .track i => some (!s.periodStarting && s.trackCondition (s.screen i).handed)
  | .dropout i => some (decide ((s.screen i).tracker.state = .dropout))
  | .preset i => some (!s.periodStarting && decide ((s.screen i).source = .safe))
  | .cue _ => none
  | .trunk => some !(s.periodLocked || decide (s.prog.state = .locked))
  | .senselink => some (decide (s.sense.state ≠ .locked))

/-- What a source's next step would do under its raw condition as it stands: the source after it and its transition
(R97). -/
def State.nextStep (s : State) (id : SourceId) : Source × Option Bool :=
  (s.source id).evaluate (s.holdOf id) (s.releaseOf id) (s.rawOf id)

/-- The number of the feed block that a feed's meter took last: the one its ring's newest entry is filed under, or the
outgoing number where no block was metered yet (R92, R98). -/
def State.meteredSeq (s : State) (i : Fin 12) (k : Fin 16) : Half := ((s.feed i k).meter.ring.head?.map Prod.fst).getD s.outSeq

/-- The sequence number of a report made at a source's own step: for OVER and SILENT the metered feed block, for MISMATCH
the sense block last taken, else the outgoing number of the period (R98). -/
def State.stepSeq (s : State) : SourceId → Half
  | .overload i k | .silent i k => s.meteredSeq i k
  | .mismatch _ _ => s.sense.lastGood.getD s.outSeq
  | _ => s.outSeq

/-- The next step of a source under its raw condition as it stands, made now (R97). -/
def State.stepNow (s : State) (id : SourceId) : State := s.stepSource id (s.rawOf id) (s.stepSeq id)

/-- The evaluations that complete a feed's block meter: OVER, then SILENT (R90 step 6). -/
def State.evaluateFeed (s : State) (i : Fin 12) (k : Fin 16) : State :=
  let s1 := s.stepSource (.overload i k) (s.rawOf (.overload i k)) s.outSeq
  s1.stepSource (.silent i k) (s1.rawOf (.silent i k)) s.outSeq

/-- A feed's whole block period: its audio, its meter, its OVER and SILENT steps (R90). -/
def State.feedPeriod (s : State) (i : Fin 12) (k : Fin 16) : State := (s.chainFeed i k).evaluateFeed i k

/-- One report of a sense block taken: the last sense code and the fault flag, then a MISMATCH step (R94, R102). -/
def State.senseReport (s : State) (seq : Half) (i : Fin 12) (k : Fin 16) (code : Nat) (fault : Bool) : State :=
  let s1 := s.onFeed i k fun y => { y with meter := { y.meter with lastSense := code }, senseFault := fault }
  s1.stepSource (.mismatch i k) (s1.pairedRaw seq i k) seq

end Sys2Proof.Machine
end

