-- ==== Sys2Proof/Machine/AlarmCommands.lean ====
section
/-! DEFINITION. The commands of the alarm events (R97, R112, R113): each is the evaluation step of the source, under its raw
condition as it stands, in which the event happens, and has no effect where that step does not bring it about (log 2). -/

namespace Sys2Proof.Machine

/-- Whether the next step of a source raises it (R97). -/
def State.raiseDue (s : State) (id : SourceId) : Bool := decide ((s.nextStep id).2 = some true)

/-- Whether the next step of a source clears it (R97). -/
def State.clearDue (s : State) (id : SourceId) : Bool := decide ((s.nextStep id).2 = some false)

/-- ALARM_RAISED (R97). -/
def execAlarmRaised (src : SourceId) (s : State) : Host.Outcome State Fault Refusal :=
  .next (if s.raiseDue src then s.stepNow src else s)

/-- ALARM_CLEARED (R97). -/
def execAlarmCleared (src : SourceId) (s : State) : Host.Outcome State Fault Refusal :=
  .next (if s.clearDue src then s.stepNow src else s)

/-- Whether the next OVER step of a feed leaves its source in a state without a transition (R111). -/
def State.overStays (s : State) (i : Fin 12) (k : Fin 16) (st : SourceState) : Bool :=
  (s.feedSet i k).protect &&
    decide ((s.nextStep (.overload i k)).1.state = st ∧ (s.nextStep (.overload i k)).2 = none)

/-- Whether the next OVER step, with the outcome ACTIVE, escalates a feed's protection (R112). -/
def State.escalateDue (s : State) (i : Fin 12) (k : Fin 16) : Bool :=
  s.overStays i k .active && decide (Config.escalateSteps ≤ (s.feed i k).protect.escalation + 1)

/-- PROTECT_ESCALATION (R112). -/
def execProtectEscalation (i : Fin 12) (k : Fin 16) (s : State) : Host.Outcome State Fault Refusal :=
  .next (if s.escalateDue i k then s.stepNow (.overload i k) else s)

/-- Whether the next OVER step, with the outcome CLEAR, recovers a feed's protection (R113). -/
def State.recoverDue (s : State) (i : Fin 12) (k : Fin 16) : Bool :=
  s.overStays i k .clear && decide (Config.recoverSteps ≤ (s.feed i k).protect.recovery + 1)

/-- PROTECT_RECOVERY (R113). -/
def execProtectRecovery (i : Fin 12) (k : Fin 16) (s : State) : Host.Outcome State Fault Refusal :=
  .next (if s.recoverDue i k then s.stepNow (.overload i k) else s)

end Sys2Proof.Machine
end

