-- ==== Sys2Proof/Machine/Requests.lean ====
section
/-! DEFINITION. What each request does once it is taken: its checks in order, its effect and its reply. -/

namespace Sys2Proof.Machine

/-! ## Replies (R178) -/

/-- A complete reply placed in the queue (R178). -/
def State.answer (s : State) (m : Message) (v : Verdict) (tagReset : Bool) (data : List Byte) : State :=
  { s with replies := s.replies ++ [Reply.mk m.kind m.tag m.screen v tagReset data true] }

/-- A complete reply that clears no tags (R178). -/
def State.reply (s : State) (m : Message) (v : Verdict) (data : List Byte) : State := s.answer m v false data

/-- A refused request: its reply carries no result data (R178). -/
def State.refuse (s : State) (m : Message) (v : Verdict) : State := s.reply m v []

/-- A held request: its place in the reply queue is taken, execution is HELD, its store work waits (R176, R178). -/
def State.hold (s : State) (m : Message) (w : EngineWork) : State :=
  State.grant { s with
    replies := s.replies ++ [Reply.mk m.kind m.tag m.screen .done false [] false]
    held := some m
    engineWork := some w }

/-! ## Reports: STATUS, SLOT-INFO, METER-READ, ALARM-READ -/

/-- STATUS (R179); its taking clears the lock-lost latch (R9). -/
def State.takeStatus (s : State) (m : Message) : State :=
  State.reply { s with lockLost := false } m .done s.statusData

/-- SLOT-INFO (R180). -/
def State.takeSlotInfo (s : State) (m : Message) : State :=
  match m.slotRef with
  | none => s.refuse m .refusedRange
  | some id => s.reply m .done (s.slot id).infoData

/-- A feed's peak hold and clip count cleared (R52, R93). -/
def Feed.clearMeter (y : Feed) : Feed := { y with meter := { y.meter with hold := 0, clips := 0 } }

/-- METER-READ (R181). -/
def State.takeMeterRead (s : State) (m : Message) : State :=
  match screenOf m.screen with
  | none => s.refuse m .refusedRange
  | some i =>
    (s.onScreen i fun x => x.mapFeeds fun _ y => y.clearMeter).reply m .done (s.screen i).meterData

/-- ALARM-READ of a screen, or of the device at screen 0 (R133). -/
def State.takeAlarmRead (s : State) (m : Message) : State :=
  if m.screen = 0 then s.reply m .done ([SourceId.trunk, .senselink].map s.alarmByte)
  else
    match screenOf m.screen with
    | none => s.refuse m .refusedRange
    | some i => s.reply m .done ((screenSources i ++ feedSources i).map s.alarmByte)

/-! ## The staging buffer and the table store -/

/-- STAGE-CLEAR (R64). -/
def State.takeStageClear (s : State) (m : Message) : State :=
  if s.device = .starting then s.refuse m .starting
  else if s.commit.state ≠ .idle then s.refuse m .busy
  else State.reply { s with staging := [] } m .done []

/-- STAGE-WRITE (R64). -/
def State.takeStageWrite (s : State) (m : Message) : State :=
  let offset := fieldAt m.body 0 2
  let data := m.body.drop 2
  if s.device = .starting then s.refuse m .starting
  else if ¬(offset < Config.stagingSize ∧ offset + data.length ≤ Config.stagingSize) then s.refuse m .refusedRange
  else if s.commit.state ≠ .idle then s.refuse m .busy
  else (s.writeStaging offset data).reply m .done []

/-- STAGE-READ (R64). -/
def State.takeStageRead (s : State) (m : Message) : State :=
  let offset := fieldAt m.body 0 2
  let n := fieldAt m.body 2 2
  if s.device = .starting then s.refuse m .starting
  else if ¬(offset < Config.stagingSize ∧ 1 ≤ n ∧ n ≤ 232 ∧ offset + n ≤ Config.stagingSize) then
    s.refuse m .refusedRange
  else s.reply m .done (s.stagingBytes offset n)

/-- STAGE-FETCH (R65). -/
def State.takeStageFetch (s : State) (m : Message) : State :=
  let offset := fieldAt m.body 2 2
  if s.device = .starting then s.refuse m .starting
  else
    match m.slotRef with
    | none => s.refuse m .refusedRange
    | some id =>
      if ¬(offset < Config.stagingSize ∧ offset + id.imageSize ≤ Config.stagingSize) then s.refuse m .refusedRange
      else if s.commit.state ≠ .idle then s.refuse m .busy
      else if (s.slot id).state = .valid ∨ (s.slot id).state = .invalid then s.hold m (.fetch id offset)
      else s.refuse m .refusedState

/-- Whether a slot's screen has its show lock set; format slots are not locked (R84). -/
def State.slotLocked (s : State) : SlotId → Bool
  | .room i _ => (s.screen i).showLock
  | .format _ => false

/-- An accepted COMMIT: the slot is WRITING and the record WAITING with a request for the port (R66). -/
def State.beginCommit (s : State) (id : SlotId) : State :=
  { s.onSlot id fun x => { x with state := .writing } with
    commit := ⟨.waiting, id, (s.slot id).state, 0, 0, false, s.commit.last⟩ }

/-- COMMIT (R66). -/
def State.takeCommit (s : State) (m : Message) : State :=
  if s.device = .starting then s.refuse m .starting
  else
    match m.slotRef with
    | none => s.refuse m .refusedRange
    | some id =>
      if ¬(s.commit.state = .idle ∧ s.storeNotices.length < Config.noticePlaces) then s.refuse m .busy
      else if s.slotLocked id then s.refuse m .locked
      else if s.slotProtected id then s.refuse m .refusedState
      else if ¬imageOk id (s.stagedImage id) then s.refuse m .badImage
      else ((s.beginCommit id).reply m .accepted []).grant

/-- COMMIT-ABANDON (R70). -/
def State.takeCommitAbandon (s : State) (m : Message) : State :=
  if s.device = .starting then s.refuse m .starting
  else
    match s.commit.state with
    | .idle => s.refuse m .refusedState
    | .waiting => (s.endCommit .abandoned).reply m .done []
    | _ => State.reply { s with commit := { s.commit with abandon := true } } m .done []

/-- Whether a slot is the source of its screen's live set (R72). -/
def State.slotLive (s : State) : SlotId → Bool
  | .room i n => decide ((s.screen i).source = .slot n)
  | .format _ => false

/-- SLOT-ERASE (R72). -/
def State.takeSlotErase (s : State) (m : Message) : State :=
  if s.device = .starting then s.refuse m .starting
  else
    match m.slotRef with
    | none => s.refuse m .refusedRange
    | some id =>
      if s.slotLocked id then s.refuse m .locked
      else if (s.slot id).state = .writing ∨ s.slotProtected id ∨ s.slotLive id then s.refuse m .refusedState
      else if (s.slot id).state = .empty then s.reply m .done []
      else (s.beginErase id).hold m (.erase id 0)

/-! ## Presets, formats, gains -/

/-- PRESET-SELECT (R78). -/
def State.takePresetSelect (s : State) (m : Message) : State :=
  let n := (byteAt m.body 0).toNat
  if s.device = .starting then s.refuse m .starting
  else
    match screenOf m.screen with
    | none => s.refuse m .refusedRange
    | some i =>
      if h : n < 4 then
        if (s.screen i).showLock then s.refuse m .locked
        else if (s.slot (.room i ⟨n, h⟩)).state = .valid then (s.placeOp i (.slot ⟨n, h⟩)).reply m .done []
        else s.refuse m .refusedState
      else s.refuse m .refusedRange

/-- The format field of a FORMAT-OVERRIDE: a code, or FFh for release (R29, R187). -/
def overrideField (b : Byte) : Option (Option (Fin 16)) :=
  if b = 255 then some none else (codeOf b.toNat).map some

/-- FORMAT-OVERRIDE (R29). -/
def State.takeFormatOverride (s : State) (m : Message) : State :=
  if s.device = .starting then s.refuse m .starting
  else
    match screenOf m.screen, overrideField (byteAt m.body 0) with
    | some i, some v =>
      if (s.screen i).showLock then s.refuse m .locked
      else
        match v with
        | none => (s.takeOverride i none).reply m .done []
        | some c =>
          if (s.cache[c]).isSome then (s.takeOverride i (some c)).reply m .done [] else s.refuse m .refusedState
    | _, _ => s.refuse m .refusedRange

/-- SCREEN-MUTE (R58). -/
def State.takeScreenMute (s : State) (m : Message) : State :=
  if s.device = .starting then s.refuse m .starting
  else
    match screenOf m.screen, flagOf (fieldAt m.body 0 1) with
    | some i, some v => (s.setMuted i v).reply m .done []
    | _, _ => s.refuse m .refusedRange

/-- MASTER-SET (R56). -/
def State.takeMasterSet (s : State) (m : Message) : State :=
  if s.device = .starting then s.refuse m .starting
  else
    match screenOf m.screen with
    | none => s.refuse m .refusedRange
    | some i => (s.loadMaster i (fieldAt m.body 0 2) (fieldAt m.body 2 2)).reply m .done []

/-! ## Cue lists -/

/-- The checks every editing request makes first (R140). -/
def State.editScreen (s : State) (m : Message) : Except Verdict (Fin 12) :=
  if s.device = .starting then .error .starting
  else
    match screenOf m.screen with
    | none => .error .refusedRange
    | some i => if (s.screen i).showLock then .error .locked else .ok i

/-- CUE-INSERT (R141), after the tag step of R140. -/
def State.takeCueInsert (s : State) (m : Message) : State :=
  match s.editScreen m with
  | .error v => s.refuse m v
  | .ok i =>
    let tr := (s.screen i).anyTagged
    let s1 := s.onScreen i Screen.clearTags
    match cueOf m.body with
    | none => s1.answer m .refusedRange tr []
    | some c =>
      if (s.screen i).cues.any fun d => d.id = c.id then s1.answer m .refusedExists tr []
      else if s.freeCues = 0 ∨ Config.listCap ≤ (s.screen i).cues.length ∨ Config.counterEnd ≤ (s.screen i).counter then
        s1.answer m .refusedFull tr []
      else
        (s1.onScreen i fun x => x.insert c).answer m .done tr
          (toBytes 2 (insertIndex (s.screen i).cues c.pos) ++ toBytes 4 (s.screen i).counter)

/-- CUE-DELETE (R142), after the tag step of R140. -/
def State.takeCueDelete (s : State) (m : Message) : State :=
  match s.editScreen m with
  | .error v => s.refuse m v
  | .ok i =>
    let tr := (s.screen i).anyTagged
    let s1 := s.onScreen i Screen.clearTags
    match (s.screen i).cueIndex (fieldAt m.body 0 2) with
    | none => s1.answer m .refusedUnknown tr []
    | some n =>
      (s1.onScreen i fun x => x.removeCues fun c => decide (c.id = fieldAt m.body 0 2)).answer m .done tr (toBytes 2 n)

/-- CUE-CLEAR (R143), after the tag step of R140. -/
def State.takeCueClear (s : State) (m : Message) : State :=
  match s.editScreen m with
  | .error v => s.refuse m v
  | .ok i =>
    (s.onScreen i Screen.clearCues).answer m .done (s.screen i).anyTagged (toBytes 2 (s.screen i).cues.length)

/-- CUE-TAG-RANGE (R145). -/
def State.takeCueTagRange (s : State) (m : Message) : State :=
  match s.editScreen m with
  | .error v => s.refuse m v
  | .ok i =>
    let p := positionAt m.body 0
    let q := positionAt m.body 4
    if p.upTo q ∧ p.block ≤ 49 ∧ q.block ≤ 49 then
      let s1 := s.onScreen i fun x => x.tagRange p q
      s1.reply m .done
        (toBytes 2 ((s1.screen i).taggedCount - (s.screen i).taggedCount) ++ toBytes 2 (s1.screen i).taggedCount)
    else s.refuse m .refusedRange

/-- CUE-UNTAG (R146). -/
def State.takeCueUntag (s : State) (m : Message) : State :=
  match s.editScreen m with
  | .error v => s.refuse m v
  | .ok i =>
    match (s.screen i).cueIndex (fieldAt m.body 0 2) with
    | none => s.refuse m .refusedUnknown
    | some _ =>
      let s1 := s.onScreen i fun x => x.untag (fieldAt m.body 0 2)
      s1.reply m .done (toBytes 2 (s1.screen i).taggedCount)

/-- CUE-DELETE-TAGGED (R147). -/
def State.takeCueDeleteTagged (s : State) (m : Message) : State :=
  match s.editScreen m with
  | .error v => s.refuse m v
  | .ok i =>
    (s.onScreen i fun x => x.removeCues Cue.tagged).reply m .done (toBytes 2 (s.screen i).taggedCount)

/-- CUE-LIST-READ (R148); its one-byte start index cannot be out of range. -/
def State.takeCueListRead (s : State) (m : Message) : State :=
  if s.device = .starting then s.refuse m .starting
  else
    match screenOf m.screen with
    | none => s.refuse m .refusedRange
    | some i => s.reply m .done (s.cueListData i (fieldAt m.body 0 1))

/-! ## Booth lines -/

/-- A line under a new configuration: its level is the new source's demand, and an ON loads the stretch (R170). -/
def State.configureLine (s : State) (n : Fin 24) (l : Line) : State :=
  s.setLine n (if s.demand l then { l with level := true, stretchTimer := l.stretch * 12 } else { l with level := false })

/-- LINE-CONFIG (R170). -/
def State.takeLineConfig (s : State) (m : Message) : State :=
  match lineConfigOf m.body with
  | none => s.refuse m .refusedRange
  | some (n, l) => (s.configureLine n l).reply m .done []

/-- LINE-DRIVE (R171). -/
def State.takeLineDrive (s : State) (m : Message) : State :=
  if s.device = .starting then s.refuse m .starting
  else
    match screenOf m.screen, lineDriveOf m.body with
    | some i, some (n, on, d) =>
      if s.lineTakes n i then
        let s1 := s.driveLine n on d
        s1.reply m .done (s1.line n).driveData
      else s.refuse m .refusedState
    | _, _ => s.refuse m .refusedRange

/-! ## Alarms and protection -/

/-- ALARM-ACKNOWLEDGE (R108). -/
def State.takeAlarmAcknowledge (s : State) (m : Message) : State :=
  if s.device = .starting then s.refuse m .starting
  else if m.screen = 0 then s.acknowledgeDevice.reply m .done []
  else
    match screenOf m.screen with
    | none => s.refuse m .refusedRange
    | some i => (s.acknowledgeScreen i).reply m .done []

/-- FEED-RESTORE (R118). -/
def State.takeFeedRestore (s : State) (m : Message) : State :=
  if s.device = .starting then s.refuse m .starting
  else
    match screenOf m.screen, codeOf (fieldAt m.body 0 1) with
    | some i, some k =>
      if (s.feed i k).folded then ((s.setFolded i k false).forceClear (.mismatch i k)).reply m .done []
      else s.refuse m .refusedState
    | _, _ => s.refuse m .refusedRange

/-- PROTECT-RESET (R114). -/
def State.takeProtectReset (s : State) (m : Message) : State :=
  if s.device = .starting then s.refuse m .starting
  else
    match screenOf m.screen with
    | none => s.refuse m .refusedRange
    | some i => (s.zeroProtect i).reply m .done []

/-! ## Show locks and restart -/

/-- Whether the commit in flight, if any, targets a room slot of a screen (R85). -/
def State.commitTargets (s : State) (i : Fin 12) : Bool :=
  decide (s.commit.state ≠ .idle) &&
    match s.commit.target with
    | .room j _ => decide (j = i)
    | .format _ => false

/-- The show lock of a screen set or cleared (R84). -/
def State.setShowLock (s : State) (i : Fin 12) (v : Bool) : State := s.onScreen i fun x => { x with showLock := v }

/-- LOCK-SET (R85). -/
def State.takeLockSet (s : State) (m : Message) : State :=
  if s.device = .starting then s.refuse m .starting
  else
    match screenOf m.screen with
    | none => s.refuse m .refusedRange
    | some i => if s.commitTargets i then s.refuse m .refusedState else (s.setShowLock i true).reply m .done []

/-- LOCK-CLEAR (R85). -/
def State.takeLockClear (s : State) (m : Message) : State :=
  if s.device = .starting then s.refuse m .starting
  else
    match screenOf m.screen with
    | none => s.refuse m .refusedRange
    | some i => if s.lockInput then s.refuse m .locked else (s.setShowLock i false).reply m .done []

/-- Cue list emptied and engine IDLE with no position (R163 steps 1 and 2, R162). -/
def Screen.restartCues (x : Screen) : Screen := { x.clearCues with tracking := false, enginePos := none }

/-- Every CUE line the screen owns set OFF (R163 step 8). -/
def State.linesOff (s : State) (i : Fin 12) : State :=
  s.forLines fun n t => if t.lineTakes n i then t.driveLine n false 0 else t

/-- The eight steps of a SCREEN-RESTART, in order (R163). -/
def State.restart (s : State) (i : Fin 12) : State :=
  let s1 := s.onScreen i Screen.restartCues
  let s2 := (s1.onScreen i fun x => { x with waiting := none }).placeOp i (s1.bootChoice i)
  let s3 := (s2.loadMaster i Config.unity 0).setMuted i false
  let s4 := s3.takeOverride i none
  let s5 := (s4.zeroProtect i).emptyFoldSet i
  let s6 := s5.restartSources i
  s6.linesOff i

/-- SCREEN-RESTART (R163). -/
def State.takeScreenRestart (s : State) (m : Message) : State :=
  if s.device = .starting then s.refuse m .starting
  else
    match screenOf m.screen with
    | none => s.refuse m .refusedRange
    | some i => if (s.screen i).showLock then s.refuse m .locked else (s.restart i).reply m .done []

/-! ## The taking of a request (R177) -/

/-- A request of a known kind and an admitted length, carried out by its own rule (R177). -/
def State.carryOut (s : State) (k : RequestKind) (m : Message) : State :=
  match k with
  | .status => s.takeStatus m
  | .slotInfo => s.takeSlotInfo m
  | .stageClear => s.takeStageClear m
  | .stageWrite => s.takeStageWrite m
  | .stageRead => s.takeStageRead m
  | .stageFetch => s.takeStageFetch m
  | .commit => s.takeCommit m
  | .commitAbandon => s.takeCommitAbandon m
  | .slotErase => s.takeSlotErase m
  | .presetSelect => s.takePresetSelect m
  | .formatOverride => s.takeFormatOverride m
  | .screenMute => s.takeScreenMute m
  | .masterSet => s.takeMasterSet m
  | .cueInsert => s.takeCueInsert m
  | .cueDelete => s.takeCueDelete m
  | .cueClear => s.takeCueClear m
  | .cueTagRange => s.takeCueTagRange m
  | .cueUntag => s.takeCueUntag m
  | .cueDeleteTagged => s.takeCueDeleteTagged m
  | .cueListRead => s.takeCueListRead m
  | .lineConfig => s.takeLineConfig m
  | .lineDrive => s.takeLineDrive m
  | .meterRead => s.takeMeterRead m
  | .alarmRead => s.takeAlarmRead m
  | .alarmAcknowledge => s.takeAlarmAcknowledge m
  | .feedRestore => s.takeFeedRestore m
  | .protectReset => s.takeProtectReset m
  | .lockSet => s.takeLockSet m
  | .lockClear => s.takeLockClear m
  | .screenRestart => s.takeScreenRestart m

/-- The taking of a message: kind, then body length, then its own rule (R177). -/
def State.takeMessage (s : State) (m : Message) : State :=
  match kindOf m.kind with
  | none => s.refuse m .unknownKind
  | some k => if k.admits m.body.length then s.carryOut k m else s.refuse m .badLength

end Sys2Proof.Machine
end

