-- ==== Sys2Proof/Machine/Lane.lean ====
section
/-! DEFINITION. The control lane engine (chapter 11): reassembly, placement, the hold buffer, and the return lane. -/

namespace Sys2Proof.Machine

/-! ## Placement of complete messages (R176) -/

/-- Whether a completing message can be taken: FREE, hold buffer empty, fewer than 8 replies (R176). -/
def State.canTake (s : State) : Bool :=
  s.held.isNone && s.holdBuf.isNone && decide (s.replies.length < Config.replyPlaces)

/-- The held message is taken where execution is FREE and the reply queue has room (R176). Whatever ends a held request or
lets a reply leave calls this at once (log 13). -/
def State.takeHoldBuffer (s : State) : State :=
  match s.holdBuf with
  | some m =>
    if s.held.isNone ∧ s.replies.length < Config.replyPlaces then State.takeMessage { s with holdBuf := none } m else s
  | none => s

/-- A message that passed its check: taken, placed in the hold buffer, or discarded with OVERRUN; a held message that may
be taken is taken first (R176, log 13). -/
def State.place (s : State) (m : Message) : State :=
  let t := s.takeHoldBuffer
  if t.canTake then t.takeMessage m
  else if t.holdBuf.isNone then { t with holdBuf := some m }
  else { t with overrun := true }

/-- A message discarded at its length: CRC-REJECT is set and reassembly waits for a start (R175). -/
def State.rejectLength (s : State) : State := { s with crcReject := true, asm := ⟨.waitStart, [], 0⟩ }

/-- A whole message that arrives sound: one whose body no header can announce is rejected as R175 gives (log 16). -/
def State.submit (s : State) (m : Message) : State := if 240 < m.body.length then s.rejectLength else s.place m

/-! ## Reassembly (R173 to R175) -/

/-- The message that gathered bytes hold. -/
def messageOf (l : List Byte) : Message := ⟨byteAt l 0, byteAt l 1, byteAt l 2, (l.drop 5).take (l.length - 7)⟩

/-- The check of a complete message: handed to execution, or discarded with CRC-REJECT (R175). -/
def State.checkMessage (s : State) (l : List Byte) : State :=
  if (crc16 (l.take (l.length - 2))).toNat = fieldAt l (l.length - 2) 2 then s.place (messageOf l)
  else { s with crcReject := true }

/-- A lane byte in HEADER (R173, R175). -/
def State.headerByte (s : State) (l : List Byte) : State :=
  if l.length < 5 then { s with asm := ⟨.header, l, 0⟩ }
  else if 240 < fieldAt l 3 2 then s.rejectLength
  else if fieldAt l 3 2 = 0 then { s with asm := ⟨.check, l, 0⟩ }
  else { s with asm := ⟨.body, l, fieldAt l 3 2⟩ }

/-- One lane byte taken by the reassembly record; `starts` says that it stands at the block's first-start offset (R173). -/
def State.laneByte (s : State) (starts : Bool) (b : Byte) : State :=
  let l := s.asm.gathered ++ [b]
  match s.asm.state with
  | .waitStart => if starts then s.headerByte [b] else s
  | .header => s.headerByte l
  | .body =>
    { s with asm := ⟨if l.length = 5 + s.asm.expected then .check else .body, l, s.asm.expected⟩ }
  | .check =>
    if l.length = 7 + s.asm.expected then State.checkMessage { s with asm := ⟨.header, [], 0⟩ } l
    else { s with asm := ⟨.check, l, s.asm.expected⟩ }

/-- The lane bytes of a taken block, in order, with the place of the next one (R173). -/
def State.laneBytes (s : State) (first at_ : Nat) : List Byte → State
  | [] => s
  | b :: rest => State.laneBytes (s.laneByte (decide (at_ = first)) b) first (at_ + 1) rest

/-- A lane gap: what was gathered is discarded, LANE-LOSS is set, reassembly waits for a start (R174). -/
def State.laneGap (s : State) : State := { s with laneLoss := true, asm := ⟨.waitStart, [], 0⟩ }

/-! ## The return lane (R182) -/

/-- A message as it is sent: header, body, CRC (R187). -/
def messageBytes (kind tag screen : Byte) (body : List Byte) : List Byte :=
  let l := [kind, tag, screen] ++ toBytes 2 body.length ++ body
  l ++ crcBytes l

/-- The kind of a reply: the request's kind plus 80h, or FFh for a kind of 80h or above (R178). -/
def replyKind (k : Byte) : Byte := if k.toNat < 128 then k + 128 else 255

/-- The bytes of a reply as it leaves (R178, R179, R187). -/
def State.replyBytes (s : State) (r : Reply) : List Byte :=
  messageBytes (replyKind r.kind) r.tag r.screen ([r.verdict.code, s.statusByte r.tagReset] ++ r.data)

/-- The bytes of a mark notice (R160, R187). -/
def MarkNotice.bytes (n : MarkNotice) : List Byte :=
  messageBytes 0xC2 0 (BitVec.ofNat 8 (n.screen.val + 1))
    (toBytes 2 n.cueId ++ toBytes 2 n.code ++ positionBytes n.cuePos ++ positionBytes n.firedPos)

/-- The bytes of a STORE notice (R71, R187). -/
def StoreNotice.bytes (n : StoreNotice) : List Byte :=
  messageBytes 0xC1 0 n.slot.screenByte (n.slot.bytes ++ [n.result.code])

/-- An alarm source's scope, screen, feed and kind as an alarm notice carries them (R123, R187). -/
def noticeFields : SourceId → Nat × Nat × Nat × Nat
  | .trunk => (0, 0, 0, 0)
  | .senselink => (0, 0, 0, 1)
  | .track i => (1, i.val + 1, 0, 2)
  | .dropout i => (1, i.val + 1, 0, 3)
  | .preset i => (1, i.val + 1, 0, 4)
  | .cue i => (1, i.val + 1, 0, 5)
  | .overload i k => (2, i.val + 1, k.val, 6)
  | .silent i k => (2, i.val + 1, k.val, 7)
  | .mismatch i k => (2, i.val + 1, k.val, 8)

/-- The bytes of an alarm notice (R128, R187). -/
def AlarmRecord.bytes (r : AlarmRecord) : List Byte :=
  let n := noticeFields r.src
  messageBytes 0xC0 0 (BitVec.ofNat 8 n.2.1)
    (toBytes 1 n.1 ++ toBytes 1 n.2.2.1 ++ toBytes 1 n.2.2.2 ++ [flagByte r.raised] ++ toBytes 1 r.transitions ++
      toBytes 2 r.seq.toNat ++ toBytes 4 (r.value.getD 0xFFFFFFFF))

/-- The oldest mark notice, else STORE notice, else alarm record leaves its queue and is in transmission (R160, R71, R128,
R182). -/
def State.beginNotice (s : State) : State :=
  match s.marks with
  | n :: rest => { s with marks := rest, tx := n.bytes }
  | [] =>
    match s.storeNotices with
    | n :: rest => { s with storeNotices := rest, tx := n.bytes }
    | [] =>
      match s.alarms with
      | r :: _ => { s.alarmLeaves with tx := r.bytes }
      | [] => s

/-- The next message leaves its queue, by the order of priority: a complete reply at the head, else a notice (R182). The
leaving of a reply makes room for the held message, which is then taken (R176). -/
def State.beginMessage (s : State) : State :=
  match s.replies with
  | r :: rest =>
    if r.complete then State.takeHoldBuffer { s.clearEvents with replies := rest, tx := s.replyBytes r }
    else s.beginNotice
  | [] => s.beginNotice

/-- A return lane being filled: the state, the bytes placed, and the place of the first message begun (R182). -/
structure LaneFill where
  state : State
  placed : List Byte
  first : Option Nat

/-- Bytes of the message in transmission placed as far as the lane has room (R182). -/
def LaneFill.pour (f : LaneFill) : LaneFill :=
  let n := Config.laneSize - f.placed.length
  ⟨{ f.state with tx := f.state.tx.drop n }, f.placed ++ f.state.tx.take n, f.first⟩

/-- One choice of the arbiter: with room left and nothing in transmission, the next message begins (R182). -/
def LaneFill.choose (f : LaneFill) : LaneFill :=
  if f.placed.length < Config.laneSize ∧ f.state.tx = [] then
    let t := f.state.beginMessage
    if t.tx = [] then f
    else LaneFill.pour ⟨t, f.placed, if f.first.isSome then f.first else some f.placed.length⟩
  else f

/-- The return lane filled: the message in transmission, then one message after another. Every message has at least 9
bytes, so at most four begin in a lane (R182). -/
def State.fillLane (s : State) : LaneFill :=
  (LaneFill.pour ⟨s, [], none⟩).choose.choose.choose.choose

end Sys2Proof.Machine
end

