-- ==== Sys2Proof/Machine/LaneCommands.lean ====
section
/-! DEFINITION. The commands of the control lane: the taking of the hold buffer (R176), a message of unknown kind (R177), and
one command per request of R187. A request command is the arrival of one whole sound message (log 16): it is placed as R176
gives and, when it is taken, carried out by its `State.take…` definition. -/

namespace Sys2Proof.Machine

/-- HOLD_BUFFER_TAKE (R176). -/
def execHoldBufferTake (s : State) : Host.Outcome State Fault Refusal := .next s.takeHoldBuffer

/-- UNKNOWN_KIND (R177, log 17). -/
def execUnknownKind (kind tag screen : Byte) (body : List Byte) (s : State) : Host.Outcome State Fault Refusal :=
  .next (s.submit ⟨kind, tag, screen, body⟩)

/-- STATUS (R179). -/
def execStatus (tag screen : Byte) (s : State) : Host.Outcome State Fault Refusal :=
  .next (s.submit ⟨0x01, tag, screen, []⟩)

/-- SLOT-INFO (R180). -/
def execSlotInfo (tag screen : Byte) (refKind refNum : Byte) (s : State) : Host.Outcome State Fault Refusal :=
  .next (s.submit ⟨0x02, tag, screen, [refKind, refNum]⟩)

/-- STAGE-CLEAR (R64). -/
def execStageClear (tag screen : Byte) (s : State) : Host.Outcome State Fault Refusal :=
  .next (s.submit ⟨0x03, tag, screen, []⟩)

/-- STAGE-WRITE (R64). -/
def execStageWrite (tag screen : Byte) (offset : Half) (data : List Byte)
    (s : State) : Host.Outcome State Fault Refusal :=
  .next (s.submit ⟨0x04, tag, screen, toBytes 2 offset.toNat ++ data⟩)

/-- STAGE-READ (R64). -/
def execStageRead (tag screen : Byte) (offset length : Half) (s : State) : Host.Outcome State Fault Refusal :=
  .next (s.submit ⟨0x05, tag, screen, toBytes 2 offset.toNat ++ toBytes 2 length.toNat⟩)

/-- STAGE-FETCH (R65). -/
def execStageFetch (tag screen : Byte) (refKind refNum : Byte) (offset : Half)
    (s : State) : Host.Outcome State Fault Refusal :=
  .next (s.submit ⟨0x06, tag, screen, [refKind, refNum] ++ toBytes 2 offset.toNat⟩)

/-- COMMIT (R66). -/
def execCommit (tag screen : Byte) (refKind refNum : Byte) (s : State) : Host.Outcome State Fault Refusal :=
  .next (s.submit ⟨0x07, tag, screen, [refKind, refNum]⟩)

/-- COMMIT-ABANDON (R70). -/
def execCommitAbandon (tag screen : Byte) (s : State) : Host.Outcome State Fault Refusal :=
  .next (s.submit ⟨0x08, tag, screen, []⟩)

/-- SLOT-ERASE (R72). -/
def execSlotErase (tag screen : Byte) (refKind refNum : Byte) (s : State) : Host.Outcome State Fault Refusal :=
  .next (s.submit ⟨0x09, tag, screen, [refKind, refNum]⟩)

/-- PRESET-SELECT (R78). -/
def execPresetSelect (tag screen : Byte) (slot : Byte) (s : State) : Host.Outcome State Fault Refusal :=
  .next (s.submit ⟨0x0A, tag, screen, [slot]⟩)

/-- FORMAT-OVERRIDE (R29). -/
def execFormatOverride (tag screen : Byte) (format : Byte) (s : State) : Host.Outcome State Fault Refusal :=
  .next (s.submit ⟨0x0B, tag, screen, [format]⟩)

/-- SCREEN-MUTE (R58). -/
def execScreenMute (tag screen : Byte) (value : Byte) (s : State) : Host.Outcome State Fault Refusal :=
  .next (s.submit ⟨0x0C, tag, screen, [value]⟩)

/-- MASTER-SET (R56). -/
def execMasterSet (tag screen : Byte) (target duration : Half) (s : State) : Host.Outcome State Fault Refusal :=
  .next (s.submit ⟨0x0D, tag, screen, toBytes 2 target.toNat ++ toBytes 2 duration.toNat⟩)

/-- CUE-INSERT (R141). -/
def execCueInsert (tag screen : Byte) (id : Half) (frame : Frame) (block flags action : Byte) (paramA paramB : Half)
    (s : State) : Host.Outcome State Fault Refusal :=
  .next (s.submit ⟨0x0E, tag, screen,
    toBytes 2 id.toNat ++ toBytes 3 frame.toNat ++ [block, flags, action] ++ toBytes 2 paramA.toNat ++
      toBytes 2 paramB.toNat⟩)

/-- CUE-DELETE (R142). -/
def execCueDelete (tag screen : Byte) (id : Half) (s : State) : Host.Outcome State Fault Refusal :=
  .next (s.submit ⟨0x0F, tag, screen, toBytes 2 id.toNat⟩)

/-- CUE-CLEAR (R143). -/
def execCueClear (tag screen : Byte) (s : State) : Host.Outcome State Fault Refusal :=
  .next (s.submit ⟨0x10, tag, screen, []⟩)

/-- CUE-TAG-RANGE (R145). -/
def execCueTagRange (tag screen : Byte) (fromFrame : Frame) (fromBlock : Byte) (toFrame : Frame) (toBlock : Byte)
    (s : State) : Host.Outcome State Fault Refusal :=
  .next (s.submit ⟨0x11, tag, screen,
    toBytes 3 fromFrame.toNat ++ [fromBlock] ++ toBytes 3 toFrame.toNat ++ [toBlock]⟩)

/-- CUE-UNTAG (R146). -/
def execCueUntag (tag screen : Byte) (id : Half) (s : State) : Host.Outcome State Fault Refusal :=
  .next (s.submit ⟨0x12, tag, screen, toBytes 2 id.toNat⟩)

/-- CUE-DELETE-TAGGED (R147). -/
def execCueDeleteTagged (tag screen : Byte) (s : State) : Host.Outcome State Fault Refusal :=
  .next (s.submit ⟨0x13, tag, screen, []⟩)

/-- CUE-LIST-READ (R148). -/
def execCueListRead (tag screen : Byte) (start : Byte) (s : State) : Host.Outcome State Fault Refusal :=
  .next (s.submit ⟨0x14, tag, screen, [start]⟩)

/-- LINE-CONFIG (R170). -/
def execLineConfig (tag screen : Byte) (line owner source forced polarity stretch blink : Byte)
    (s : State) : Host.Outcome State Fault Refusal :=
  .next (s.submit ⟨0x15, tag, screen, [line, owner, source, forced, polarity, stretch, blink]⟩)

/-- LINE-DRIVE (R171). -/
def execLineDrive (tag screen : Byte) (line action : Byte) (duration : Half)
    (s : State) : Host.Outcome State Fault Refusal :=
  .next (s.submit ⟨0x16, tag, screen, [line, action] ++ toBytes 2 duration.toNat⟩)

/-- METER-READ (R181). -/
def execMeterRead (tag screen : Byte) (s : State) : Host.Outcome State Fault Refusal :=
  .next (s.submit ⟨0x17, tag, screen, []⟩)

/-- ALARM-READ (R133). -/
def execAlarmRead (tag screen : Byte) (s : State) : Host.Outcome State Fault Refusal :=
  .next (s.submit ⟨0x18, tag, screen, []⟩)

/-- ALARM-ACKNOWLEDGE (R108). -/
def execAlarmAcknowledge (tag screen : Byte) (s : State) : Host.Outcome State Fault Refusal :=
  .next (s.submit ⟨0x19, tag, screen, []⟩)

/-- FEED-RESTORE (R118). -/
def execFeedRestore (tag screen : Byte) (feed : Byte) (s : State) : Host.Outcome State Fault Refusal :=
  .next (s.submit ⟨0x1A, tag, screen, [feed]⟩)

/-- PROTECT-RESET (R114). -/
def execProtectReset (tag screen : Byte) (s : State) : Host.Outcome State Fault Refusal :=
  .next (s.submit ⟨0x1B, tag, screen, []⟩)

/-- LOCK-SET (R85). -/
def execLockSet (tag screen : Byte) (s : State) : Host.Outcome State Fault Refusal :=
  .next (s.submit ⟨0x1C, tag, screen, []⟩)

/-- LOCK-CLEAR (R85). -/
def execLockClear (tag screen : Byte) (s : State) : Host.Outcome State Fault Refusal :=
  .next (s.submit ⟨0x1D, tag, screen, []⟩)

/-- SCREEN-RESTART (R163). -/
def execScreenRestart (tag screen : Byte) (s : State) : Host.Outcome State Fault Refusal :=
  .next (s.submit ⟨0x1E, tag, screen, []⟩)

end Sys2Proof.Machine
end

