-- ==== Sys2Proof/Machine/LineCommands.lean ====
section
/-! DEFINITION. The commands of the line timers (R167 to R169) and of the LOCK pin (R85). A timer's event has no effect
where it is not due at the next boundary (log 2). -/

namespace Sys2Proof.Machine

/-- STRETCH_EXPIRY (R167). -/
def execStretchExpiry (n : Fin 24) (s : State) : Host.Outcome State Fault Refusal :=
  .next (if (s.line n).stretchTimer = 1 then s.stretchStep n else s)

/-- PULSE_EXPIRY (R169). -/
def execPulseExpiry (n : Fin 24) (s : State) : Host.Outcome State Fault Refusal :=
  .next (if (s.line n).pulse = 1 then s.pulseStep n else s)

/-- Whether the blink count's next step crosses its phase limit or wraps (R168). That the event happens also on a line whose
source keeps the pin's phase always on is the model's choice (log 2). -/
def Line.blinkDue (l : Line) : Bool :=
  l.level &&
    match l.blink with
    | .steady => false
    | .slow => decide (l.blinkCount = 599 ∨ l.blinkCount = 1199)
    | .fast => decide (l.blinkCount = 149 ∨ l.blinkCount = 299)

/-- BLINK_PHASE_CHANGE (R168). -/
def execBlinkPhaseChange (n : Fin 24) (s : State) : Host.Outcome State Fault Refusal :=
  .next (if (s.line n).blinkDue then s.setLine n (s.line n).blinkStep else s)

/-- LOCK_INPUT_CHANGE: the level that LOCK-CLEAR samples (R85). -/
def execLockInputChange (asserted : Bool) (s : State) : Host.Outcome State Fault Refusal :=
  .next { s with lockInput := asserted }

end Sys2Proof.Machine
end

