-- ==== Sys2Proof/Machine/StoreCommands.lean ====
section
/-! DEFINITION. The commands that end a unit of store work (R74, R75) and those of a preset swap (R81, R82). A unit ends
only when it holds the port and has lasted a block period; where it does not, the command has no effect (log 2, log 5). The
end of a held request takes the message in the hold buffer at once (R176). -/

namespace Sys2Proof.Machine

/-- The end of the unit in progress, where it is of the named kind and may end (R75). -/
def State.endUnitOf (s : State) (p : PortWork → Bool) (u : Upset) : State := if s.unitDue p then s.endUnit u else s

/-- The same for the store work of a held request, whose end takes the message in the hold buffer (R75, R176). That the port
is granted to the work that waits before that message is taken is the model's choice (log 13). -/
def State.endHeldUnitOf (s : State) (p : PortWork → Bool) (u : Upset) : State :=
  if s.unitDue p then (s.endUnit u).takeHoldBuffer else s

/-- A start-up scan unit. -/
def PortWork.isScan : PortWork → Bool
  | .scan => true
  | _ => false

/-- A preset load. -/
def PortWork.isLoad : PortWork → Bool
  | .load _ => true
  | _ => false

/-- A format refresh. -/
def PortWork.isRefresh : PortWork → Bool
  | .refresh _ => true
  | _ => false

/-- A commit's page write. -/
def PortWork.isPageWrite : PortWork → Bool
  | .commitWrite => true
  | _ => false

/-- A commit's page verify. -/
def PortWork.isPageVerify : PortWork → Bool
  | .commitVerify => true
  | _ => false

/-- A unit of the control lane engine's erase. -/
def State.isErase (s : State) : PortWork → Bool
  | .engine => match s.engineWork with
    | some (.erase _ _) => true
    | _ => false
  | _ => false

/-- The unit of the control lane engine's fetch. -/
def State.isFetch (s : State) : PortWork → Bool
  | .engine => match s.engineWork with
    | some (.fetch _ _) => true
    | _ => false
  | _ => false

/-- SCAN_PAGE_READ (R87). -/
def execScanPageRead (u : Upset) (s : State) : Host.Outcome State Fault Refusal := .next (s.endUnitOf PortWork.isScan u)

/-- PRESET_LOAD_END (R80, R88). -/
def execPresetLoadEnd (u : Upset) (s : State) : Host.Outcome State Fault Refusal := .next (s.endUnitOf PortWork.isLoad u)

/-- LIVE_SET_REPLACEMENT (R81). -/
def execLiveSetReplacement (i : Fin 12) (s : State) : Host.Outcome State Fault Refusal := .next (s.takeMuteZero i)

/-- SWAP_END (R82, log 28). -/
def execSwapEnd (i : Fin 12) (s : State) : Host.Outcome State Fault Refusal :=
  .next (s.takeSwapEnd i)

/-- FORMAT_REFRESH_END (R25). -/
def execFormatRefreshEnd (u : Upset) (s : State) : Host.Outcome State Fault Refusal :=
  .next (s.endUnitOf PortWork.isRefresh u)

/-- PAGE_WRITE_END (R68). -/
def execPageWriteEnd (s : State) : Host.Outcome State Fault Refusal := .next (s.endUnitOf PortWork.isPageWrite [])

/-- PAGE_VERIFY_END (R68). -/
def execPageVerifyEnd (u : Upset) (s : State) : Host.Outcome State Fault Refusal :=
  .next (s.endUnitOf PortWork.isPageVerify u)

/-- ERASE_PAGE_WRITE_END (R73, R176). -/
def execErasePageWriteEnd (s : State) : Host.Outcome State Fault Refusal := .next (s.endHeldUnitOf s.isErase [])

/-- FETCH_COMPLETE (R65, R176). -/
def execFetchComplete (u : Upset) (s : State) : Host.Outcome State Fault Refusal :=
  .next (s.endHeldUnitOf s.isFetch u)

end Sys2Proof.Machine
end

