-- ==== Sys2Proof/Machine/Period.lean ====
section
/-! DEFINITION. The block period (R1): its opening at a boundary, the programs' absence, and its processing at its end, with
the feed block and the return block that end it. -/

namespace Sys2Proof.Machine

/-! ## The boundary that opens a period -/

/-- Whether the integrity window in progress has had its 1200 periods (R10). -/
def State.windowDue (s : State) : Bool := decide (Config.windowPeriods ≤ s.windowCount)

/-- The end of the integrity window (R10). -/
def State.endWindow (s : State) : State :=
  { s with integrityCount := s.integrityAcc, integrityAcc := 0, windowCount := 0 }

/-- What falls due in a period happens before the next one opens at the latest: the window's end, the replacements, the end
of an overdue unit, and at once where that ends a held request the taking of the hold buffer (R176, log 5, log 12 to
log 14). That the replacements of several screens are taken, and hand their CLEARED reports, in screen order, and that the
four come in the order written here, is the model's choice (log 11). -/
def State.settle (s : State) : State :=
  let s1 := if s.windowDue then s.endWindow else s
  ((s1.forScreens fun i t => t.takeMuteZero i).overdueUnit).takeHoldBuffer

/-- The boundary step of a screen's two ramps (R53). -/
def Screen.rampStep (x : Screen) : Screen := { x with master := x.master.step, mute := x.mute.step }

/-- The mute-zero indication after the ramps' step; a screen that is not FADING-OUT makes nothing of it (R61, R81). -/
def Screen.indicate (x : Screen) : Screen :=
  if x.phase = .fadingOut ∧ x.mute.current = 0 ∧ x.mute.target = 0 then { x with muteZero := true } else x

/-- A screen's block boundary: ramps, mute-zero indication, the fade-in's count (R53, R61, R82). -/
def State.screenBoundary (s : State) (i : Fin 12) : State :=
  (s.onScreen i fun x => x.rampStep.indicate).fadeInStep i

/-- The outgoing sequence number and the lock state of the period that opens (R2, log 3, log 22). -/
def State.enterPeriod (s : State) (seq : Option Half) (locked : Bool) : State :=
  { s with
    outSeq := seq.getD (s.outSeq + 1)
    periodOpen := true
    periodLocked := locked
    periodStarting := decide (s.device = .starting) }

/-- The opening of a period: `seq` is the number of the program block taken for it, `locked` whether PROGRAM IN paces it
(R1, R2). That the screens' boundaries are taken in screen order, so that of two swaps which end at one boundary with
pending loads the lower screen's load reaches a free port first, is the model's choice where R74 allows either (log 11).
So it is that what is settled comes before this boundary's own steps: a ramp loaded there makes its first step at this
boundary (R53), a line request taken there comes before the line's step (R172), and a unit that ends at its limit grants the
port to the work that waited before the pending load of a swap which ends at this boundary arrives (R74; log 11). The unit
at the port, that load's too, then has this boundary counted (R75, log 5). -/
def State.openPeriod (s : State) (seq : Option Half) (locked : Bool) : State :=
  let s1 := (s.settle.enterPeriod seq locked).forScreens fun i t => t.screenBoundary i
  s1.ageUnit.forLines fun n t => t.lineBoundary n

/-! ## Absent programs and the handing of audio (R17, R18) -/

/-- The tracker record of a screen that goes ABSENT: rate and position are kept (R17). -/
def Tracker.toAbsent (t : Tracker) : Tracker := { t with state := .absent, code := 0, mask := 255, dropouts := 0 }

/-- A screen absent for a period; at the dropout limit its cue engine goes IDLE (R17, R162). -/
def Screen.absentUpdate (x : Screen) : Screen :=
  match x.tracker.state with
  | .playing => { x with tracker := { x.tracker with state := .dropout, dropouts := 1 } }
  | .dropout =>
    if Config.dropoutLimit ≤ x.tracker.dropouts + 1 then { x with tracker := x.tracker.toAbsent, tracking := false }
    else { x with tracker := { x.tracker with dropouts := x.tracker.dropouts + 1 } }
  | .stopped | .paused => { x with tracker := x.tracker.toAbsent }
  | .absent => x

/-- The handing of a period's audio, with the override then set (R18, R19, log 4). -/
def Screen.handOver (x : Screen) (tracks : List (List Int)) : Screen :=
  { x with handed := ⟨x.tracker.code, x.override, x.tracker.mask, tracks⟩ }

/-- A tracker update of a screen, the handing that follows it, and the rebuild where the effective format changed (R37). -/
def State.trackScreen (s : State) (i : Fin 12) (f : Screen → Screen) (tracks : List (List Int)) : State :=
  let x := f (s.screen i)
  let s1 := s.setScreen i (x.handOver tracks)
  if x.effectiveCode = (s.screen i).effectiveCode then s1 else s1.rebuild i

/-- A screen absent for the period (R17, R18). -/
def State.absentScreen (s : State) (i : Fin 12) : State := s.trackScreen i Screen.absentUpdate zeroTracks

/-- All twelve screens absent for the period (R8, R11). -/
def State.absentPeriod (s : State) : State := s.forScreens fun i t => t.absentScreen i

/-! ## The processing of a period -/

/-- The steps of a screen's TRACK, DROPOUT and PRESET sources (R103); TRACK and PRESET are handed as false in STARTING
(R86). That their reports reach the alarm queue in this order of kinds is the model's choice (log 11). -/
def State.stepScreenSources (s : State) (i : Fin 12) : State :=
  let s1 := s.stepSource (.track i) (s.rawOf (.track i)) s.outSeq
  let s2 := s1.stepSource (.dropout i) (s.rawOf (.dropout i)) s.outSeq
  s2.stepSource (.preset i) (s.rawOf (.preset i)) s.outSeq

/-- The steps of the device sources TRUNK and SENSELINK (R105). -/
def State.stepDeviceSources (s : State) : State :=
  (s.stepSource .trunk (s.rawOf .trunk) s.outSeq).stepSource .senselink (s.rawOf .senselink) s.outSeq

/-- The any-alarm indications of a screen handed (R109). -/
def State.handAlarms (s : State) (i : Fin 12) : State :=
  s.onScreen i fun x => { x with alarmActive := s.anyActive i, alarmLatched := s.anyLatched i }

/-- Audio, meters and alarms of the period: feeds first, then screens, then the device, then the handings (R90, R103, R105,
R109). That the sources of several feeds, screens and kinds take the period's step, and hand their reports to the alarm
queue, in this order (feeds by screen and number with OVER before SILENT as R90 gives, then screens by number with TRACK,
DROPOUT, PRESET of each, then TRUNK, SENSELINK) is the model's choice: R130 orders the reports of a forcing event alone (log
11). -/
def State.processPeriod (s : State) : State :=
  let s1 := s.forFeeds fun i k t => t.feedPeriod i k
  let s2 := (s1.forScreens fun i t => t.stepScreenSources i).stepDeviceSources
  (s2.forScreens fun i t => t.handAlarms i).refreshLines

/-- The period counted for the integrity window, as bad where PROGRAM IN was not LOCKED (R10). -/
def State.countPeriod (s : State) : State :=
  { s with
    windowCount := s.windowCount + 1
    integrityAcc := if s.periodLocked then s.integrityAcc else s.integrityAcc + 1 }

/-- A block as it is sent: sync, the covered bytes, their check (R185). -/
def trunkBlock (sync covered : List Byte) : List Byte := sync ++ covered ++ crcBytes covered

/-- The samples of a feed as the feed block carries them (R186). -/
def Feed.outBytes (y : Feed) : List Byte := y.out.flatMap (toBytesSigned 3)

/-- The feed block of the period (R21, R185, R186). -/
def State.feedBlockBytes (s : State) : List Byte :=
  trunkBlock [0xC3, 0x3C, 0xA5, 0x5A]
    (toBytes 2 s.outSeq.toNat ++ (List.finRange 12).map s.feedStatus ++
      (List.finRange 12).flatMap fun i => (List.finRange 16).flatMap fun k => (s.feed i k).outBytes)

/-- The return block of the period around a filled lane (R20, R182, R185, R186). -/
def State.returnBlockBytes (s : State) (lane : LaneFill) : List Byte :=
  trunkBlock [0x96, 0x69, 0x3A, 0xC5]
    (toBytes 2 s.outSeq.toNat ++ (List.finRange 12).flatMap s.summaryBytes ++ toBytes 1 lane.placed.length ++
      toBytes 1 (lane.first.getD 255) ++ lane.placed)

/-- The two blocks sent at the end of a period, with the return lane filled as the return block is formed (R1, R182). That
the screen summaries and the feed status bytes are those of the state before the lane is filled, so that what a request
changes which the leaving of a reply lets be taken from the hold buffer shows in the next period's blocks, is the model's
choice where R20 allows either (log 11). -/
def State.sendBlocks (s : State) : State :=
  let lane := s.fillLane
  { lane.state with feedOut := s.feedBlockBytes, returnOut := s.returnBlockBytes lane, periodOpen := false }

/-- The end of the period in progress: its block of audio is processed, the period counted, the blocks sent (R1). -/
def State.closePeriod (s : State) : State := s.processPeriod.countPeriod.sendBlocks

/-- The end of the period in progress, if one is (log 3). -/
def State.closeIfOpen (s : State) : State := if s.periodOpen then s.closePeriod else s

/-- A free-running period opens: every screen is absent (R1, R11). -/
def State.openFree (s : State) : State := (s.openPeriod none false).absentPeriod

end Sys2Proof.Machine
end

