-- ==== Sys2Proof/Machine/Trunk.lean ====
section
/-! DEFINITION. The trunk receiver (sections 1.2 and 1.3) and the program tracker (sections 1.4 and 1.5): goodness of
blocks, the lock machine of both ports, descriptors and payload, and the taking of a block. -/

namespace Sys2Proof.Machine

/-! ## The lock machine of a port (R4 to R8, R12) -/

/-- A good block found in SEEK (R4). -/
def LockMachine.found (m : LockMachine) (seq : Half) : LockMachine :=
  { m with state := .confirm, confirmCount := 1, confirmSeq := seq }

/-- A bad block, or no sync, at the due point in CONFIRM (R5). -/
def LockMachine.missed (m : LockMachine) : LockMachine := { m with state := .seek, confirmCount := 0 }

/-- A block taken (R5 to R7). -/
def LockMachine.taken (m : LockMachine) (seq : Half) : LockMachine := { m with lastGood := some seq, badRun := 0 }

/-- The confirm count after a good block in CONFIRM (R5). -/
def LockMachine.nextCount (m : LockMachine) (seq : Half) : Nat :=
  if seq = m.confirmSeq + 1 then m.confirmCount + 1 else 1

/-- A good block in CONFIRM; the count's reaching 3 completes the lock and takes the block (R5). -/
def LockMachine.confirmed (m : LockMachine) (seq : Half) : LockMachine :=
  let m1 := { m with confirmCount := m.nextCount seq, confirmSeq := seq }
  if Config.confirmGoal ≤ m.nextCount seq then { m1.taken seq with state := .locked } else m1

/-- The expected sequence number: lost blocks advance it as taken ones do (R6, log 27). -/
def LockMachine.expected (m : LockMachine) : Half := m.lastGood.getD 0 + BitVec.ofNat 16 m.badRun + 1

/-- A lost block in LOCKED; the eighth in a row returns the port to SEEK (R8, R12). -/
def LockMachine.lose (m : LockMachine) : LockMachine :=
  { m with badRun := m.badRun + 1, state := if Config.badRunLimit ≤ m.badRun + 1 then .seek else m.state }

/-! ## Goodness of blocks (R3, R12) -/

/-- The sync pattern of a program block (R185). -/
def programSync : List Byte := [0x3A, 0xC5, 0x96, 0x69]

/-- The sync pattern of a sense block (R185). -/
def senseSync : List Byte := [0x5C, 0xA3, 0x69, 0x96]

/-- The sequence number a block carries (R186). -/
def seqOf (l : List Byte) : Half := BitVec.ofNat 16 (fieldAt l 4 2)

/-- Byte j of the descriptor of screen i + 1 (R186). -/
def descByte (l : List Byte) (i j : Nat) : Byte := byteAt l (8 + 8 * i + j)

/-- The present bit of a descriptor, as sent (R186). -/
def descPresent (l : List Byte) (i : Nat) : Bool := (descByte l i 0).getLsbD 7

/-- The number of tracks among the first n that a mask names (R186). -/
def maskTracks (mask : Byte) (n : Nat) : Nat := ((List.range n).filter fun t => mask.getLsbD t).length

/-- The tracks the payload holds for a descriptor, by its present bit and mask as sent (R3, R14). -/
def descTracks (l : List Byte) (i : Nat) : Nat := if descPresent l i then maskTracks (descByte l i 3) 8 else 0

/-- The lane length a block carries (R186). -/
def laneLength (l : List Byte) : Nat := fieldAt l 6 1

/-- Where the payload of screen i + 1 begins (R186). -/
def payloadAt (l : List Byte) (i : Nat) : Nat := 104 + laneLength l + 120 * ((List.range i).map (descTracks l)).sum

/-- The length a program block's contents give it (R186). -/
def programLength (l : List Byte) : Nat := payloadAt l 12 + 2

/-- Whether a block's check over its bytes from the sequence number on is correct, for a block of n bytes (R185). -/
def checkOk (l : List Byte) (n : Nat) : Bool :=
  decide ((crc16 ((l.take (n - 2)).drop 4)).toNat = fieldAt l (n - 2) 2)

/-- Whether a program block read at the due point is good (R3). -/
def programGood (l : List Byte) : Bool :=
  decide (l.take 4 = programSync ∧ laneLength l ≤ 32 ∧ l.length = programLength l) && checkOk l l.length

/-- Whether a sense block read at the due point is good (R12, R186). -/
def senseGood (l : List Byte) : Bool := decide (l.take 4 = senseSync ∧ l.length = 584) && checkOk l 584

/-- The program block that begins with a pattern found in SEEK, as its sequence number if it is good (R4). -/
def readProgram (bits : List Bool) : Option Half :=
  let l := bytesOf (bits.length / 8) bits
  if programGood (l.take (programLength l)) then some (seqOf l) else none

/-- The sense block that begins with a pattern found in SEEK, as its sequence number if it is good (R12). -/
def readSense (bits : List Bool) : Option Half :=
  let l := bytesOf 584 bits
  if senseGood l then some (seqOf l) else none

/-- A port in SEEK searching the bits that arrive (R4, R12). -/
def LockMachine.seek (m : LockMachine) (r : Option Half) : LockMachine :=
  match r with
  | some seq => m.found seq
  | none => m

/-- What is left to search of an arrival that failed in CONFIRM: from the bit after the due point (R5). That one which does
not begin at the due point is taken to lie wholly after it is the model's choice (log 15). -/
def afterDue (atDue : Bool) (l : List Byte) : List Bool := if atDue then (bitsOf l).drop 1 else bitsOf l

/-! ## Descriptors and payload (R14, R16, R186) -/

/-- The play state a descriptor's code stands for (R186). -/
def playOf (n : Nat) : Option ProgramState :=
  match n with
  | 0 => some .stopped
  | 1 => some .paused
  | 2 => some .playing
  | _ => none

/-- The rate a descriptor's code stands for (R14). -/
def rateOf (n : Nat) : Option (Fin 4) := if h : n < 4 then some ⟨n, h⟩ else none

/-- A present, well-formed descriptor (R14). -/
structure Descriptor where
  play : ProgramState
  rate : Fin 4
  code : Fin 16
  mask : Byte
  pos : Position
deriving DecidableEq, Repr

/-- The descriptor of screen i + 1, where it is present and well formed (R14, R186). -/
def descriptorOf (l : List Byte) (i : Nat) : Option Descriptor :=
  let pos := positionAt l (8 + 8 * i + 4)
  match playOf ((descByte l i 0).toNat % 4), rateOf (descByte l i 1).toNat, codeOf (descByte l i 2).toNat with
  | some p, some r, some c =>
    if descPresent l i ∧ pos.block < blocksPerFrame r then some ⟨p, r, c, descByte l i 3, pos⟩ else none
  | _, _, _ => none

/-- Forty samples from a place of the payload (R186). -/
def samplesAt (l : List Byte) (n : Nat) : List Int :=
  (List.range Config.blockSamples).map fun j => signedAt l (n + 3 * j) 3

/-- The eight tracks of screen i + 1: its payload where the mask names the track, else zeros (R14, R18). -/
def tracksOf (l : List Byte) (i : Nat) : List (List Int) :=
  (List.range 8).map fun t =>
    if (descByte l i 3).getLsbD t then samplesAt l (payloadAt l i + 120 * maskTracks (descByte l i 3) t)
    else List.replicate Config.blockSamples 0

/-- The tracker's update from a descriptor (R16). -/
def Screen.describe (x : Screen) (d : Descriptor) : Screen :=
  { x with tracker :=
    if d.play = .playing then ⟨d.play, d.code, d.mask, some d.rate, some d.pos, 0⟩
    else { x.tracker with state := d.play, code := d.code, mask := d.mask } }

/-- The position event formed from the record as it stands before the block (R16, R19). -/
def Screen.eventFor (x : Screen) (d : Descriptor) : PositionEvent :=
  ⟨d.pos, x.tracker.lastPos, d.rate, decide (x.tracker.rate ≠ some d.rate), x.tracker.dropouts⟩

/-- The position event a block gives a screen: PLAYING, while RUNNING (R19). -/
def State.eventOf (s : State) (l : List Byte) (i : Fin 12) : Option PositionEvent :=
  match descriptorOf l i with
  | some d => if d.play = .playing ∧ s.device = .running then some ((s.screen i).eventFor d) else none
  | none => none

/-- A screen's update and handing from a block taken (R14, R16, R18). -/
def State.describeScreen (s : State) (l : List Byte) (i : Fin 12) : State :=
  match descriptorOf l i with
  | some d => s.trackScreen i (fun x => x.describe d) (tracksOf l i)
  | none => s.absentScreen i

/-- A position event handed, if there is one (R19). -/
def State.takeEvent (s : State) (i : Fin 12) (e : Option PositionEvent) : State :=
  match e with
  | some e => s.takePosition i e
  | none => s

/-- The lane bytes of a block (R186). -/
def laneOf (l : List Byte) : List Byte := (l.drop 104).take (laneLength l)

/-- The bytes of a block taken, handed on: trackers and audio, position events, then the lane, after a lane gap where the
block is a discontinuity (R6, R7, R16, R19, log 11). -/
def State.handBlock (s : State) (l : List Byte) (gap : Bool) : State :=
  let s1 := s.forScreens fun i t => t.describeScreen l i
  let s2 := s1.forScreens fun i t => t.takeEvent i (s.eventOf l i)
  (if gap then s2.laneGap else s2).laneBytes (byteAt l 7).toNat 0 (laneOf l)

/-! ## PROGRAM IN -/

/-- The lock machine of PROGRAM IN changed; the lines with source TRUNK follow (R11, R166). -/
def State.setProg (s : State) (m : LockMachine) : State := State.refreshLines { s with prog := m }

/-- One bad period more for the integrity window (R10). -/
def State.countBad (s : State) : State := { s with integrityAcc := s.integrityAcc + 1 }

/-- A lost block in LOCKED: the period opens with every screen absent (R8); the eighth loses the lock (R9). -/
def State.lostBlock (s : State) : State :=
  let s1 := (s.closeIfOpen.openPeriod none true).absentPeriod.laneGap.countBad
  let m := s1.prog.lose
  State.setProg { s1 with lockLost := s1.lockLost || decide (m.state = .seek) } m

/-- The block that completes the lock: the free-running period ends and a new one begins with it (R1, R5). -/
def State.lockComplete (s : State) (l : List Byte) : State :=
  let s1 := s.closeIfOpen.openPeriod (some (seqOf l)) true
  (s1.setProg (s1.prog.confirmed (seqOf l))).handBlock l false

/-- A good block in LOCKED, in sequence or with a discontinuity (R6, R7). -/
def State.takeLocked (s : State) (l : List Byte) : State :=
  let gap := decide (seqOf l ≠ s.prog.expected)
  let s1 := s.closeIfOpen.openPeriod (some (seqOf l)) true
  let s2 := { s1 with prog := s1.prog.taken (seqOf l) }
  (if gap then s2.countBad else s2).handBlock l gap

/-- Whether the eighth lost block's period is still in progress: the last of LOCKED, with PROGRAM IN already in SEEK. The
search for sync starts when the next period begins (R8). -/
def State.lastLocked (s : State) : Bool := s.periodOpen && s.periodLocked

/-- A program block arrives (R4 to R8). `atDue` says that its sync stands where CONFIRM or LOCKED looks for it (log 15). -/
def State.programBlock (s : State) (atDue : Bool) (l : List Byte) : State :=
  match s.prog.state with
  | .seek =>
    if s.lastLocked then s else { s with prog := s.prog.seek (searchBits programSync readProgram (bitsOf l)) }
  | .confirm =>
    if atDue && programGood l then
      if Config.confirmGoal ≤ s.prog.nextCount (seqOf l) then s.lockComplete l
      else { s with prog := s.prog.confirmed (seqOf l) }
    else { s with prog := s.prog.missed.seek (searchBits programSync readProgram (afterDue atDue l)) }
  | .locked => if atDue && programGood l then s.takeLocked l else s.lostBlock

/-! ## SENSE IN -/

/-- The reports of a sense block taken (R94, R186). That their MISMATCH transitions reach the alarm queue in the order of
screen and feed is the model's choice (log 11), and so it is that bits 7..1 of a fault byte, which R186 does not name, are
not read (log 36). -/
def State.senseReports (s : State) (l : List Byte) : State :=
  s.forFeeds fun i k t =>
    let n := 6 + 3 * (16 * i.val + k.val)
    t.senseReport (seqOf l) i k (fieldAt l n 2) ((byteAt l (n + 2)).getLsbD 0)

/-- A lost sense block in LOCKED; its MISMATCH steps are held (R12, R94). -/
def State.lostSense (s : State) : State := { s with sense := s.sense.lose }

/-- A sense block arrives (R12, R94). -/
def State.senseBlock (s : State) (atDue : Bool) (l : List Byte) : State :=
  match s.sense.state with
  | .seek => { s with sense := s.sense.seek (searchBits senseSync readSense (bitsOf l)) }
  | .confirm =>
    if atDue && senseGood l then
      let m := s.sense.confirmed (seqOf l)
      if m.state = .locked then State.senseReports { s with sense := m } l else { s with sense := m }
    else { s with sense := s.sense.missed.seek (searchBits senseSync readSense (afterDue atDue l)) }
  | .locked =>
    if atDue && senseGood l then State.senseReports { s with sense := s.sense.taken (seqOf l) } l else s.lostSense

/-! ## Block periods as commands see them -/

/-- The period in progress; where none is, the one that must have begun: a lost block in LOCKED, else a free-running one
(R1, R8, log 3). -/
def State.ensureOpen (s : State) : State :=
  if s.periodOpen then s else if s.prog.state = .locked then s.lostBlock else s.openFree

/-- A block period ends; outside LOCKED the next one opens at once (R1). -/
def State.blockPeriod (s : State) : State :=
  let s1 := s.ensureOpen.closePeriod
  if s1.prog.state = .locked then s1 else s1.openFree

end Sys2Proof.Machine
end

