-- ==== Sys2Proof/Machine/TimeCommands.lean ====
section
/-! DEFINITION. The commands of reset and time: RESET (R86) and BLOCK_PERIOD (R1). -/

namespace Sys2Proof.Machine

/-- The page whose write is in progress: of the commit, or of an erase (R63, R73). -/
def State.pageInWrite (s : State) : Option (SlotId × Nat) :=
  match s.port.map PortUnit.work with
  | some .commitWrite => some (s.commit.target, s.commit.next)
  | some .engine =>
    match s.engineWork with
    | some (.erase id page) => some (id, page)
    | _ => none
  | _ => none

/-- The undefined bytes of a page whose write is cut: free values, numbered on (R63, log 8). -/
def cutBytes (n : Nat) : List Byte := (List.range Config.pageSize).map fun j => Config.cutByte (n + j)

/-- A page write cut by the reset leaves undefined bytes in its page (R63, log 8). -/
def State.cutWrite (s : State) : State :=
  match s.pageInWrite with
  | some (id, page) =>
    { s.writeArray (id.base + Config.pageSize * page) (cutBytes s.freeCount) with
      freeCount := s.freeCount + Config.pageSize }
  | none => s

/-- The part after a reset: everything at its reset value but the non-volatile array and marks, the LOCK input's level and
the model's own queue and count (R62, R63, R86, log 24). -/
def State.afterReset (s : State) : State :=
  let s1 := s.cutWrite
  { State.reset with
    lockInput := s1.lockInput
    freeCount := s1.freeCount
    pending := s1.pending
    array := s1.array
    slots := Vector.ofFn fun i : Fin 63 => Slot.reset i.val (s1.slots[i]).mark }

/-- RESET: power-on or the RESET pin (R86). -/
def execReset (s : State) : Host.Outcome State Fault Refusal := .next s.afterReset

/-- BLOCK_PERIOD: the period in progress is processed and sent, and outside LOCKED the next one opens (R1, log 3). -/
def execBlockPeriod (s : State) : Host.Outcome State Fault Refusal := .next s.blockPeriod

end Sys2Proof.Machine
end

