-- ==== Sys2Proof/Machine/TrunkCommands.lean ====
section
/-! DEFINITION. The commands of the trunk: blocks that arrive or fail to, the integrity window and the dropout limit. -/

namespace Sys2Proof.Machine

/-- PROGRAM_BLOCK (R3 to R8). -/
def execProgramBlock (atDue : Bool) (bytes : List Byte) (s : State) : Host.Outcome State Fault Refusal :=
  .next (s.programBlock atDue bytes)

/-- LOST_BLOCK: only in LOCKED is a block lost (R8). -/
def execLostBlock (s : State) : Host.Outcome State Fault Refusal :=
  .next (if s.prog.state = .locked then s.lostBlock else s)

/-- INTEGRITY_WINDOW_END: after the window's 1200th period (R10, log 14). -/
def execIntegrityWindowEnd (s : State) : Host.Outcome State Fault Refusal :=
  .next (if s.windowDue then s.endWindow else s)

/-- Whether one absent period more brings a screen to its dropout limit (R17). -/
def Screen.dropoutDue (x : Screen) : Bool :=
  decide (x.tracker.state = .dropout ∧ Config.dropoutLimit ≤ x.tracker.dropouts + 1)

/-- DROPOUT_LIMIT: the screen's 1200th dropout period makes it ABSENT (R17, log 2). -/
def execDropoutLimit (i : Fin 12) (s : State) : Host.Outcome State Fault Refusal :=
  .next (if (s.screen i).dropoutDue then s.absentScreen i else s)

/-- SENSE_BLOCK (R12, R94). -/
def execSenseBlock (atDue : Bool) (bytes : List Byte) (s : State) : Host.Outcome State Fault Refusal :=
  .next (s.senseBlock atDue bytes)

/-- LOST_SENSE_BLOCK: only in LOCKED is a sense block lost (R12). -/
def execLostSenseBlock (s : State) : Host.Outcome State Fault Refusal :=
  .next (if s.sense.state = .locked then s.lostSense else s)

/-- A due point that passes with no sync: only CONFIRM makes anything of it (R5). -/
def LockMachine.dueMissed (m : LockMachine) : LockMachine := if m.state = .confirm then m.missed else m

/-- CONFIRM_DUE_POINT_MISSED (R5, R12). -/
def execConfirmDuePointMissed (port : Port) (s : State) : Host.Outcome State Fault Refusal :=
  match port with
  | .program => .next { s with prog := s.prog.dueMissed }
  | .sense => .next { s with sense := s.sense.dueMissed }

end Sys2Proof.Machine
end

