-- ==== Sys2Proof/Machine/Dispatch.lean ====
section
/-! DEFINITION. The command's effect on everything but the queue: one arm per row of spec/opcode_table.json. -/

namespace Sys2Proof.Machine

def exec (i : Instr) (s : State) : Host.Outcome State Fault Refusal :=
  match i with
  | .reset => Sys2Proof.Machine.execReset s
  | .blockPeriod => Sys2Proof.Machine.execBlockPeriod s
  | .programBlock atDue bytes => Sys2Proof.Machine.execProgramBlock atDue bytes s
  | .lostBlock => Sys2Proof.Machine.execLostBlock s
  | .integrityWindowEnd => Sys2Proof.Machine.execIntegrityWindowEnd s
  | .dropoutLimit screen => Sys2Proof.Machine.execDropoutLimit screen s
  | .alarmRaised src => Sys2Proof.Machine.execAlarmRaised src s
  | .alarmCleared src => Sys2Proof.Machine.execAlarmCleared src s
  | .protectEscalation screen feed => Sys2Proof.Machine.execProtectEscalation screen feed s
  | .protectRecovery screen feed => Sys2Proof.Machine.execProtectRecovery screen feed s
  | .senseBlock atDue bytes => Sys2Proof.Machine.execSenseBlock atDue bytes s
  | .lostSenseBlock => Sys2Proof.Machine.execLostSenseBlock s
  | .scanPageRead upset => Sys2Proof.Machine.execScanPageRead upset s
  | .presetLoadEnd upset => Sys2Proof.Machine.execPresetLoadEnd upset s
  | .liveSetReplacement screen => Sys2Proof.Machine.execLiveSetReplacement screen s
  | .swapEnd screen => Sys2Proof.Machine.execSwapEnd screen s
  | .formatRefreshEnd upset => Sys2Proof.Machine.execFormatRefreshEnd upset s
  | .pageWriteEnd => Sys2Proof.Machine.execPageWriteEnd s
  | .pageVerifyEnd upset => Sys2Proof.Machine.execPageVerifyEnd upset s
  | .erasePageWriteEnd => Sys2Proof.Machine.execErasePageWriteEnd s
  | .fetchComplete upset => Sys2Proof.Machine.execFetchComplete upset s
  | .stretchExpiry line => Sys2Proof.Machine.execStretchExpiry line s
  | .pulseExpiry line => Sys2Proof.Machine.execPulseExpiry line s
  | .blinkPhaseChange line => Sys2Proof.Machine.execBlinkPhaseChange line s
  | .holdBufferTake => Sys2Proof.Machine.execHoldBufferTake s
  | .unknownKind kind tag screen body => Sys2Proof.Machine.execUnknownKind kind tag screen body s
  | .status tag screen => Sys2Proof.Machine.execStatus tag screen s
  | .slotInfo tag screen refKind refNum => Sys2Proof.Machine.execSlotInfo tag screen refKind refNum s
  | .stageClear tag screen => Sys2Proof.Machine.execStageClear tag screen s
  | .stageWrite tag screen offset data => Sys2Proof.Machine.execStageWrite tag screen offset data s
  | .stageRead tag screen offset length => Sys2Proof.Machine.execStageRead tag screen offset length s
  | .stageFetch tag screen refKind refNum offset => Sys2Proof.Machine.execStageFetch tag screen refKind refNum offset s
  | .commit tag screen refKind refNum => Sys2Proof.Machine.execCommit tag screen refKind refNum s
  | .commitAbandon tag screen => Sys2Proof.Machine.execCommitAbandon tag screen s
  | .slotErase tag screen refKind refNum => Sys2Proof.Machine.execSlotErase tag screen refKind refNum s
  | .presetSelect tag screen slot => Sys2Proof.Machine.execPresetSelect tag screen slot s
  | .formatOverride tag screen format => Sys2Proof.Machine.execFormatOverride tag screen format s
  | .screenMute tag screen value => Sys2Proof.Machine.execScreenMute tag screen value s
  | .masterSet tag screen target duration => Sys2Proof.Machine.execMasterSet tag screen target duration s
  | .cueInsert tag screen id frame block flags action paramA paramB => Sys2Proof.Machine.execCueInsert tag screen id frame block flags action paramA paramB s
  | .cueDelete tag screen id => Sys2Proof.Machine.execCueDelete tag screen id s
  | .cueClear tag screen => Sys2Proof.Machine.execCueClear tag screen s
  | .cueTagRange tag screen f1 b1 f2 b2 => Sys2Proof.Machine.execCueTagRange tag screen f1 b1 f2 b2 s
  | .cueUntag tag screen id => Sys2Proof.Machine.execCueUntag tag screen id s
  | .cueDeleteTagged tag screen => Sys2Proof.Machine.execCueDeleteTagged tag screen s
  | .cueListRead tag screen start => Sys2Proof.Machine.execCueListRead tag screen start s
  | .lineConfig tag screen line owner source forced polarity stretch blink => Sys2Proof.Machine.execLineConfig tag screen line owner source forced polarity stretch blink s
  | .lineDrive tag screen line action duration => Sys2Proof.Machine.execLineDrive tag screen line action duration s
  | .meterRead tag screen => Sys2Proof.Machine.execMeterRead tag screen s
  | .alarmRead tag screen => Sys2Proof.Machine.execAlarmRead tag screen s
  | .alarmAcknowledge tag screen => Sys2Proof.Machine.execAlarmAcknowledge tag screen s
  | .feedRestore tag screen feed => Sys2Proof.Machine.execFeedRestore tag screen feed s
  | .protectReset tag screen => Sys2Proof.Machine.execProtectReset tag screen s
  | .lockSet tag screen => Sys2Proof.Machine.execLockSet tag screen s
  | .lockClear tag screen => Sys2Proof.Machine.execLockClear tag screen s
  | .screenRestart tag screen => Sys2Proof.Machine.execScreenRestart tag screen s
  | .confirmDuePointMissed port => Sys2Proof.Machine.execConfirmDuePointMissed port s
  | .lockInputChange asserted => Sys2Proof.Machine.execLockInputChange asserted s

end Sys2Proof.Machine
end

