-- ==== Sys2Proof/Safety.lean ====
section
/-! DEFINITION. What a safe state and a safe run are, in the terms the statements use: invariants that the spec's prose
gives, what lets a request be taken at once, and completion. -/

namespace Sys2Proof.Machine

/-- A command completes: it answers a next state. -/
def Completes (c : Instr) (s : State) : Prop := ∃ t, exec c s = .next t

/-- A run is safe when every step of it answers a next state. -/
def SafeRun : Nat → State → Prop
  | 0, _ => True
  | n + 1, s => ∃ t, step s = .next t ∧ SafeRun n t

/-- Both addressed stores in their canonical form. -/
def State.storesCanonical (s : State) : Prop :=
  Memory.wf stagingDefault s.staging = true ∧ Memory.wf arrayDefault s.array = true

/-- The queues within their places: alarm list (R123), mark notices (R160), replies (R176), STORE notices (R71). -/
def State.queuesBounded (s : State) : Prop :=
  s.alarms.length ≤ 64 ∧ s.marks.length ≤ 16 ∧ s.replies.length ≤ 8 ∧ s.storeNotices.length ≤ 4

/-- A STORE notice's place is kept for the commit in progress, and a commit's unit holds the port only while the commit is
in that unit's state (R66, R68, R71). -/
def State.commitInStep (s : State) : Prop :=
  (s.commit.state ≠ .idle → s.storeNotices.length < 4) ∧
    ∀ p, s.port = some p → (p.work = .commitWrite → s.commit.state = .writing) ∧
      (p.work = .commitVerify → s.commit.state = .verifying)

/-- The list never holds two records of one source, and a source with its unreported flag set has none (R125). -/
def State.reportsOnce (s : State) : Prop :=
  (s.alarms.map AlarmRecord.src).Nodup ∧ ∀ id, (s.source id).unreported = true → s.queued id = false

/-- The queues as R71, R123, R125, R160 and R176 keep them. -/
def State.queuesKept (s : State) : Prop := s.queuesBounded ∧ s.commitInStep ∧ s.reportsOnce

/-- What the report of a source's transition leaves in `t` from `s`: nothing for a feed source without NOTIFY; else the
source's record updated in place, a new record at the tail, or a deferral (R98, R125 to R127). -/
def State.reported (s t : State) (src : SourceId) (up : Bool) (seq : Half) : Prop :=
  let flags := (t.source src).unreported = (s.source src).unreported ∧
    (t.source src).unreportedCount = (s.source src).unreportedCount
  if s.notifies src = false then t.alarms = s.alarms ∧ flags
  else if s.queued src then
    t.alarms = (s.alarms.map fun r =>
      if r.src = src then ⟨r.src, up, min 255 (r.transitions + 1), seq, s.reportValue src⟩ else r) ∧ flags
  else if (s.source src).unreported = false ∧ s.alarms.length < 64 then
    t.alarms = s.alarms ++ [⟨src, up, 1, seq, s.reportValue src⟩] ∧ flags
  else t.alarms = s.alarms ∧ (t.source src).unreported = true ∧
    (t.source src).unreportedCount = min 255 ((s.source src).unreportedCount + 1)

/-- Every source that is ACTIVE or RELEASE is latched (R99). -/
def State.latchesHold (s : State) : Prop := ∀ id, (s.source id).isUp = true → (s.source id).latched = true

/-- Cue a stands before cue b in list order: by position, then by insertion number (R138). -/
def Cue.before (a b : Cue) : Prop := a.pos.before b.pos = true ∨ (a.pos = b.pos ∧ a.number < b.number)

/-- A screen's list in list order, ids all different, at most 256 cues, every insertion number below the counter (R137,
R138). -/
def Screen.listOrdered (x : Screen) : Prop :=
  x.cues.Pairwise (fun a b => a.before b ∧ a.id ≠ b.id) ∧ (∀ c ∈ x.cues, c.number < x.counter) ∧ x.cues.length ≤ 256

/-- The pointer of a TRACKING engine: cues before it at or before the last processed position, the others after it
(R139). -/
def Screen.pointerInStep (x : Screen) : Prop :=
  x.tracking = true → ∃ p, x.enginePos = some p ∧ x.pointer ≤ x.cues.length ∧
    (∀ c ∈ x.cues.take x.pointer, c.pos.upTo p = true) ∧ (∀ c ∈ x.cues.drop x.pointer, p.before c.pos = true)

/-- The cue lists as R137 to R139 keep them. -/
def State.cuesInOrder (s : State) : Prop :=
  (∀ i, (s.screen i).listOrdered ∧ (s.screen i).pointerInStep) ∧
    ((List.finRange 12).map fun i => (s.screen i).cues.length).sum ≤ 1024

/-- A request that arrives now is taken at once: execution FREE, hold buffer empty, a place in the reply queue (R176). -/
def State.ready (s : State) : Prop := s.held = none ∧ s.holdBuf = none ∧ s.replies.length < 8

/-- The state with one complete reply more at the tail of the reply queue (R178). -/
def State.replied (s : State) (r : Reply) : State := { s with replies := s.replies ++ [r] }

/-- The requests that are served while the device is STARTING (R86). -/
def RequestKind.servedInStarting : RequestKind → Bool
  | .status | .slotInfo | .meterRead | .alarmRead | .lineConfig => true
  | _ => false

end Sys2Proof.Machine
end

