-- ==== Sys2Proof/Certificates/Slice0/Obligations.lean ====
section
/-! DEFINITION. The statements for the provers, `Obligations.<Name>`. Each docstring says which rule of spec/ it formalises
and, where it rests on a choice of the model, which entry of the assumption log made it. -/

open Sys2Proof Sys2Proof.Machine

/-! ## The queue, the reset, the invariants -/

/-- The command at the front of the queue runs on the queue's rest; an empty queue idles. The queue is the model's (log
1). -/
def Obligations.StepRunsFront : Prop :=
  ∀ s : State, (s.pending = [] → step s = .next s) ∧
    ∀ (c : Instr) (rest : List Instr), s.pending = c :: rest → step s = exec c { s with pending := rest }

/-- RESET outside a page write leaves the part as `State.reset` has it, with the array and the marks kept (R62, R63, R86).
That the queue, the LOCK input's level and the count of free values are kept is the model's choice (log 24), and so are the
values of `State.reset` that the spec leaves open: the first period in progress (log 3) with the start-up scan at the port
(log 37), and the fields of log 10, log 20, log 26 and log 34. -/
def Obligations.ResetLeaves : Prop :=
  ∀ s : State, s.pageInWrite = none →
    exec .reset s = .next { State.reset with
      lockInput := s.lockInput
      freeCount := s.freeCount
      pending := s.pending
      array := s.array
      slots := Vector.ofFn fun i : Fin 63 =>
        ⟨.empty, false, List.replicate (if i.val < 48 then 32 else 16) 0, (s.slots[i]).mark⟩ }

/-- What the spec's rules give for reset, kind of state by kind of state: trunk state (R2, R4, R9, R10, R12), trackers
(R15), format cache, overrides, rows and folds (R24, R28, R33, R38), gains (R41, R57), slots, staging buffer, commit
record and STORE notices (R62, R64, R69, R71), live sets, operations, show locks and the device (R76, R79, R84, R86),
meters (R89), alarm sources and list (R96, R97, R99, R123, R124), protect records (R110), cue lists and engines (R137,
R149), mark notices (R160), lines (R165), replies and execution (R176, R178, and the opening of chapter 11). -/
def Obligations.ResetValues : Prop :=
  State.reset.device = .starting ∧ State.reset.outSeq = 0 ∧ State.reset.lockLost = false ∧
    State.reset.integrityAcc = 0 ∧ State.reset.integrityCount = 0 ∧
    (∀ m ∈ [State.reset.prog, State.reset.sense],
      m.state = .seek ∧ m.lastGood = none ∧ m.confirmCount = 0 ∧ m.badRun = 0) ∧
    (∀ i : Fin 12, (State.reset.screen i).tracker = ⟨.absent, 0, 255, none, none, 0⟩ ∧
      (State.reset.screen i).override = none ∧ (State.reset.screen i).master = ⟨32768, 32768, 32768, 0⟩ ∧
      (State.reset.screen i).mute = ⟨0, 0, 0, 0⟩ ∧ (State.reset.screen i).muted = false ∧
      (State.reset.screen i).source = .safe ∧ (State.reset.screen i).stale = false ∧
      (State.reset.screen i).phase = .none ∧ (State.reset.screen i).running = none ∧
      (State.reset.screen i).showLock = false ∧ (State.reset.screen i).cues = [] ∧
      (State.reset.screen i).counter = 0 ∧ (State.reset.screen i).tracking = false ∧
      (State.reset.screen i).enginePos = none ∧ (State.reset.screen i).pointer = 0) ∧
    (∀ (i : Fin 12) (k : Fin 16), (State.reset.feed i k).folded = false ∧ (State.reset.feed i k).fold = .none ∧
      (State.reset.feed i k).protect = ⟨0, 0, 0⟩ ∧ (State.reset.feed i k).meter = ⟨0, 0, 0, 0, 0, 0, []⟩ ∧
      (State.reset.feed i k).row = (List.range 8).map fun t => if t = k.val then 16384 else 0) ∧
    (∀ id, (State.reset.source id).state = .clear ∧ (State.reset.source id).count = 0 ∧
      (State.reset.source id).latched = false ∧ (State.reset.source id).unreported = false) ∧
    (∀ n : Fin 24, State.reset.line n = ⟨none, .none, false, false, 0, .steady, false, false, 0, 0, 0⟩) ∧
    (∀ id, (State.reset.slot id).state = .empty) ∧ (∀ c : Fin 16, (State.reset.cache[c]).isSome = decide (c = 0)) ∧
    State.reset.commit.state = .idle ∧ State.reset.commit.last = .none ∧ State.reset.alarms = [] ∧
    State.reset.marks = [] ∧ State.reset.storeNotices = [] ∧ State.reset.replies = [] ∧ State.reset.held = none ∧
    State.reset.holdBuf = none ∧ (∀ a, Memory.read stagingDefault State.reset.staging a = 0)

/-- A RESET during a page write leaves every byte of the array outside that page, and every mark, as they were (R63). What
it leaves in the page is free (log 8) and nothing is said of it. -/
def Obligations.ResetCutsOnePage : Prop :=
  ∀ (s : State) (id : SlotId) (page : Nat), Memory.wf arrayDefault s.array = true → s.pageInWrite = some (id, page) →
    ∃ t : State, exec .reset s = .next t ∧ t.device = .starting ∧ t.staging = [] ∧
      (∀ a, a < id.base + 256 * page ∨ id.base + 256 * page + 256 ≤ a →
        Memory.read arrayDefault t.array a = Memory.read arrayDefault s.array a) ∧
      ∀ j, (t.slot j).mark = (s.slot j).mark ∧ (t.slot j).state = .empty

/-- The invariants hold of the part after reset. Choices of the model: log 7. -/
def Obligations.ResetMeetsInvariants : Prop :=
  State.reset.storesCanonical ∧ State.reset.queuesKept ∧ State.reset.latchesHold ∧ State.reset.cuesInOrder

/-- Every step keeps the canonical form of the staging buffer and of the slot array. The form is the model's (log 7). -/
def Obligations.StepKeepsStores : Prop :=
  ∀ s t : State, s.storesCanonical → step s = .next t → t.storesCanonical

/-- Every step keeps the alarm list, the mark notice, reply and STORE notice queues within their places, a STORE notice's
place for the commit in progress, at most one record for a source, and none for a source that is unreported (R66, R68, R71,
R123, R125, R160, R176). -/
def Obligations.StepKeepsQueues : Prop :=
  ∀ s t : State, s.queuesKept → step s = .next t → t.queuesKept

/-- Every step keeps the latched flag of every source that is ACTIVE or RELEASE set (R99). -/
def Obligations.StepKeepsLatches : Prop :=
  ∀ s t : State, s.latchesHold → step s = .next t → t.latchesHold

/-- Every step keeps every cue list in list order with different ids, within its 256 cues and the pool's 1024, and the
pointer of every TRACKING engine in step with its last processed position (R137, R138, R139). -/
def Obligations.StepKeepsCueLists : Prop :=
  ∀ s t : State, s.cuesInOrder → step s = .next t → t.cuesInOrder

/-! ## Block periods and the trunk -/

/-- BLOCK_PERIOD outside LOCKED: the period ends, is counted for the integrity window, and the next one free-runs with the
next sequence number and every screen absent (R1, R2, R10, R11, R17). When the window ends is log 14. Choices of the
model: log 3. -/
def Obligations.BlockPeriodFree : Prop :=
  ∀ s : State, s.periodOpen = true → s.prog.state ≠ .locked →
    ∃ t : State, exec .blockPeriod s = .next t ∧ t.periodOpen = true ∧ t.periodLocked = false ∧ t.outSeq = s.outSeq + 1 ∧
      t.prog = s.prog ∧ t.sense = s.sense ∧ t.lockInput = s.lockInput ∧
      (s.windowCount + 1 < 1200 → t.windowCount = s.windowCount + 1 ∧ t.integrityCount = s.integrityCount ∧
        t.integrityAcc = s.integrityAcc + if s.periodLocked then 0 else 1) ∧
      (1200 ≤ s.windowCount + 1 → t.windowCount = 0 ∧ t.integrityAcc = 0 ∧
        t.integrityCount = s.integrityAcc + if s.periodLocked then 0 else 1) ∧
      ∀ i, (t.screen i).tracker = (s.screen i).absentUpdate.tracker

/-- BLOCK_PERIOD in LOCKED ends the period: every feed's block goes through decode and the feed chain, whose states,
outgoing samples and meter record it leaves (R42, R51, R90), and one feed block and one return block are sent, both with the
period's sequence number (R1, R2, R185). The feed block carries for every screen the muted and SAFE flags, muted where the
mute gain is 0 and for every screen in a silent period, and the 40 samples of each feed (R21, R186); the return block for
every screen its program state and the SAFE, any-alarm and TRACKING flags, the alarm sources as their steps of the period
leave them, and the return lane (R20, R186), which continues the message in transmission and then begins the next, whose
first byte it names (R182). The trunk state, the cue lists and the slot array are left. With a message in the hold buffer,
which a reply's leaving lets be taken (R176), the state left is the one that the filling of the lane leaves. When the window
ends is log 14. Choices of the model: log 3, log 4, log 11, log 22, log 36. -/
def Obligations.BlockPeriodSends : Prop :=
  ∀ s : State, s.periodOpen = true → s.prog.state = .locked →
    let silent := !s.periodLocked || s.periodStarting
    let chain (i : Fin 12) (k : Fin 16) := (s.screen i).feedBlock (s.formatFor (s.screen i).handed.effectiveCode) k
    let samples (i : Fin 12) (k : Fin 16) : List Sample := if silent then List.replicate 40 ⟨0, false⟩ else (chain i k).1
    let feedBytes := toBytes 2 s.outSeq.toNat ++
      ((List.finRange 12).map fun i => BitVec.ofNat 8
        ((if silent = true ∨ (s.screen i).mute.current = 0 then 1 else 0) + if (s.screen i).source = .safe then 2 else 0)) ++
      (List.finRange 12).flatMap fun i => (List.finRange 16).flatMap fun k =>
        (samples i k).flatMap fun y => toBytesSigned 3 y.value
    let p := s.processPeriod.countPeriod
    let lane := p.fillLane
    let returnBytes := toBytes 2 s.outSeq.toNat ++
      ((List.finRange 12).flatMap fun i =>
        [match (s.screen i).tracker.state with
          | .absent => 0
          | .stopped => 1
          | .paused => 2
          | .playing => 3
          | .dropout => 4,
        BitVec.ofNat 8 ((if (s.screen i).source = .safe then 1 else 0) +
          (if ∃ id ∈ screenSources i ++ feedSources i, (p.source id).isUp = true then 2 else 0) +
          if (s.screen i).tracking then 4 else 0)]) ++
      toBytes 1 lane.placed.length ++ toBytes 1 (lane.first.getD 255) ++ lane.placed
    ∃ t : State, exec .blockPeriod s = .next t ∧ t.periodOpen = false ∧ t.outSeq = s.outSeq ∧ t.prog = s.prog ∧
      t.sense = s.sense ∧ t.windowCount = s.windowCount + 1 ∧
      t.feedOut = [0xC3, 0x3C, 0xA5, 0x5A] ++ feedBytes ++ crcBytes feedBytes ∧ t.feedOut.length = 23060 ∧
      t.returnOut = [0x96, 0x69, 0x3A, 0xC5] ++ returnBytes ++ crcBytes returnBytes ∧ lane.placed.length ≤ 32 ∧
      t = { lane.state with feedOut := t.feedOut, returnOut := t.returnOut, periodOpen := false } ∧
      (32 ≤ s.tx.length → lane.placed = s.tx.take 32 ∧ lane.first = none ∧ t.tx = s.tx.drop 32) ∧
      (s.tx.length < 32 →
        let b := State.beginMessage { p with tx := [] }
        if b.tx = [] then lane.placed = s.tx ∧ lane.first = none
        else lane.first = some s.tx.length ∧ (s.tx ++ b.tx).take 32 <+: lane.placed) ∧
      (∀ i, (t.screen i).tracker = (s.screen i).tracker) ∧
      (s.holdBuf = none →
        t = { s with
          screens := t.screens, lines := t.lines, alarms := t.alarms, trunk := t.trunk, senselink := t.senselink
          marks := t.marks, storeNotices := t.storeNotices, replies := t.replies, tx := t.tx, laneLoss := t.laneLoss
          crcReject := t.crcReject, overrun := t.overrun, commitEnded := t.commitEnded, windowCount := s.windowCount + 1
          integrityAcc := t.integrityAcc, feedOut := t.feedOut, returnOut := t.returnOut, periodOpen := false } ∧
        (∀ id, (t.source id).state = (p.source id).state) ∧
        (∀ i, (t.screen i).cues = (s.screen i).cues) ∧
        ∀ i k, (t.feed i k).biquads = (chain i k).2.biquads ∧ (t.feed i k).delay = (chain i k).2.delay ∧
          (t.feed i k).out = (samples i k).map Sample.value ∧
          (t.feed i k).meter = (s.feed i k).meter.block (samples i k) s.outSeq)

/-- The check of every trunk block that BLOCK_PERIOD sends is the one a receiver accepts, and the CRC is the one whose check
value R184 gives (R184, R185). -/
def Obligations.TrunkBlocksCheck : Prop :=
  crc16 [0x31, 0x32, 0x33, 0x34, 0x35, 0x36, 0x37, 0x38, 0x39] = 0x29B1#16 ∧
    ∀ s : State, ∃ t : State, exec .blockPeriod s = .next t ∧ checkOk t.feedOut t.feedOut.length = true ∧
      checkOk t.returnOut t.returnOut.length = true

/-- In SEEK a good block that begins the arriving bytes moves PROGRAM IN to CONFIRM with count 1 and is not taken; the
search begins with the period after the last one of LOCKED. In CONFIRM a good block in sequence raises the count below 3,
any other restarts it at 1; a bad block or a due point without a sync returns the port to SEEK with count 0, where the
search of what is left may find a good block at once. SENSE IN does the same with its own blocks. Nothing else changes
(R4, R5, R8, R12). Choices of the model: log 15. -/
def Obligations.SeekAndConfirm : Prop :=
  ∀ s : State,
    (s.prog.state = .seek → ∀ (atDue : Bool) (l : List Byte),
      (s.lastLocked = true → exec (.programBlock atDue l) s = .next s) ∧
      (s.lastLocked = false → programGood l = true → exec (.programBlock atDue l) s = .next { s with prog :=
        { s.prog with state := .confirm, confirmCount := 1, confirmSeq := seqOf l } })) ∧
    (s.prog.state = .confirm →
      (∀ l, programGood l = true → seqOf l ≠ s.prog.confirmSeq + 1 →
        exec (.programBlock true l) s = .next { s with prog :=
          { s.prog with confirmCount := 1, confirmSeq := seqOf l } }) ∧
      (∀ l, programGood l = true → seqOf l = s.prog.confirmSeq + 1 → s.prog.confirmCount + 1 < 3 →
        exec (.programBlock true l) s = .next { s with prog :=
          { s.prog with confirmCount := s.prog.confirmCount + 1, confirmSeq := seqOf l } }) ∧
      (∀ atDue l, (atDue && programGood l) = false →
        let found := searchBits programSync readProgram (if atDue then (bitsOf l).drop 1 else bitsOf l)
        (found = none → exec (.programBlock atDue l) s = .next { s with prog :=
          { s.prog with state := .seek, confirmCount := 0 } }) ∧
        ∀ q, found = some q → exec (.programBlock atDue l) s = .next { s with prog :=
          { s.prog with state := .confirm, confirmCount := 1, confirmSeq := q } }) ∧
      exec (.confirmDuePointMissed .program) s =
        .next { s with prog := { s.prog with state := .seek, confirmCount := 0 } }) ∧
    (s.sense.state = .seek → ∀ (atDue : Bool) (l : List Byte), senseGood l = true →
      exec (.senseBlock atDue l) s = .next { s with sense :=
        { s.sense with state := .confirm, confirmCount := 1, confirmSeq := seqOf l } }) ∧
    (s.sense.state = .confirm →
      (∀ l, senseGood l = true → seqOf l ≠ s.sense.confirmSeq + 1 →
        exec (.senseBlock true l) s = .next { s with sense :=
          { s.sense with confirmCount := 1, confirmSeq := seqOf l } }) ∧
      (∀ l, senseGood l = true → seqOf l = s.sense.confirmSeq + 1 → s.sense.confirmCount + 1 < 3 →
        exec (.senseBlock true l) s = .next { s with sense :=
          { s.sense with confirmCount := s.sense.confirmCount + 1, confirmSeq := seqOf l } }) ∧
      (∀ atDue l, (atDue && senseGood l) = false →
        let found := searchBits senseSync readSense (if atDue then (bitsOf l).drop 1 else bitsOf l)
        (found = none → exec (.senseBlock atDue l) s = .next { s with sense :=
          { s.sense with state := .seek, confirmCount := 0 } }) ∧
        ∀ q, found = some q → exec (.senseBlock atDue l) s = .next { s with sense :=
          { s.sense with state := .confirm, confirmCount := 1, confirmSeq := q } }) ∧
      exec (.confirmDuePointMissed .sense) s =
        .next { s with sense := { s.sense with state := .seek, confirmCount := 0 } })

/-- The third good block in sequence completes the lock and is taken: the period in progress ends and is counted, the next
realigns to the block, its number becomes the last good and the outgoing one, the bad run is 0, every tracker is updated from its descriptor and hands on its code, mask
and samples; then, while RUNNING, every PLAYING screen's cue engine takes its position event, and the lane its bytes (R1,
R2, R5, R10, R16, R17, R18, R19, R173). When the window ends is log 14. Choices of the model: log 3, log 11, log 15. -/
def Obligations.LockCompletes : Prop :=
  ∀ (s : State) (l : List Byte), s.prog.state = .confirm → programGood l = true →
    seqOf l = s.prog.confirmSeq + 1 → 3 ≤ s.prog.confirmCount + 1 →
    ∃ t : State, exec (.programBlock true l) s = .next t ∧ t.prog.state = .locked ∧ t.prog.lastGood = some (seqOf l) ∧
      t.prog.badRun = 0 ∧ t.outSeq = seqOf l ∧ t.periodOpen = true ∧ t.periodLocked = true ∧ t.sense = s.sense ∧
      t.lockInput = s.lockInput ∧
      (let w := s.windowCount + if s.periodOpen then 1 else 0
        let a := s.integrityAcc + if s.periodOpen = true ∧ s.periodLocked = false then 1 else 0
        t.windowCount = (if 1200 ≤ w then 0 else w) ∧ t.integrityCount = (if 1200 ≤ w then a else s.integrityCount) ∧
          t.integrityAcc = (if 1200 ≤ w then 0 else a)) ∧
      (∀ i : Fin 12,
        let x := match descriptorOf l i.val with
          | some d => (s.screen i).describe d
          | none => (s.screen i).absentUpdate
        (t.screen i).tracker = x.tracker ∧ (t.screen i).handed.code = x.tracker.code ∧
          (t.screen i).handed.mask = x.tracker.mask ∧
          (t.screen i).handed.tracks = if (descriptorOf l i.val).isSome then tracksOf l i.val
            else List.replicate 8 (List.replicate 40 0)) ∧
      let s1 := s.closeIfOpen.openPeriod (some (seqOf l)) true
      let u := (s1.setProg (s1.prog.confirmed (seqOf l))).forScreens fun i v => v.describeScreen l i
      let events := (List.finRange 12).foldl (fun (v : State) i =>
        match descriptorOf l i.val with
        | some d => if d.play = .playing ∧ u.device = .running then v.takePosition i
            ⟨d.pos, (s.screen i).tracker.lastPos, d.rate, decide ((s.screen i).tracker.rate ≠ some d.rate),
              (s.screen i).tracker.dropouts⟩ else v
        | none => v) u
      t = events.laneBytes (byteAt l 7).toNat 0 (laneOf l)

/-- A good block in LOCKED is taken, in sequence or not: its number becomes the last good and the outgoing one, the bad
run is 0; a period in progress ends and is counted, and of the new one only a discontinuity counts as bad; trackers are updated and hand on their code, mask and samples;
then, while RUNNING, every PLAYING screen's cue engine takes its position event, and the lane its bytes, after a gap where
the block is a discontinuity (R2, R6, R7, R10, R16, R17, R18, R19, R173, R174). When the window ends is log 14. Choices of the model:
log 3, log 11, log 15. -/
def Obligations.LockedTakesBlock : Prop :=
  ∀ (s : State) (l : List Byte), s.prog.state = .locked → programGood l = true →
    ∃ t : State, exec (.programBlock true l) s = .next t ∧ t.prog = { s.prog with lastGood := some (seqOf l), badRun := 0 } ∧
      t.prog.expected = seqOf l + 1 ∧ t.outSeq = seqOf l ∧ t.periodOpen = true ∧ t.periodLocked = true ∧ t.sense = s.sense ∧
      (let w := s.windowCount + if s.periodOpen then 1 else 0
        let a := s.integrityAcc + if s.periodOpen = true ∧ s.periodLocked = false then 1 else 0
        t.windowCount = (if 1200 ≤ w then 0 else w) ∧ t.integrityCount = (if 1200 ≤ w then a else s.integrityCount) ∧
          t.integrityAcc = (if 1200 ≤ w then 0 else a) + if seqOf l = s.prog.expected then 0 else 1) ∧
      (∀ i : Fin 12,
        let x := match descriptorOf l i.val with
          | some d => (s.screen i).describe d
          | none => (s.screen i).absentUpdate
        (t.screen i).tracker = x.tracker ∧ (t.screen i).handed.code = x.tracker.code ∧
          (t.screen i).handed.mask = x.tracker.mask ∧
          (t.screen i).handed.tracks = if (descriptorOf l i.val).isSome then tracksOf l i.val
            else List.replicate 8 (List.replicate 40 0)) ∧
      let s1 := s.closeIfOpen.openPeriod (some (seqOf l)) true
      let s2 := { s1 with prog := s1.prog.taken (seqOf l) }
      let u := (if seqOf l = s.prog.expected then s2 else { s2 with integrityAcc := s2.integrityAcc + 1 }).forScreens
        fun i v => v.describeScreen l i
      let events := (List.finRange 12).foldl (fun (v : State) i =>
        match descriptorOf l i.val with
        | some d => if d.play = .playing ∧ u.device = .running then v.takePosition i
            ⟨d.pos, (s.screen i).tracker.lastPos, d.rate, decide ((s.screen i).tracker.rate ≠ some d.rate),
              (s.screen i).tracker.dropouts⟩ else v
        | none => v) u
      t = (if seqOf l = s.prog.expected then events
        else { events with laneLoss := true, asm := ⟨.waitStart, [], 0⟩ }).laneBytes (byteAt l 7).toNat 0 (laneOf l)

/-- A lost block in LOCKED, by its own command or as a bad block: a period in progress ends and is counted, every screen is
absent for the new one, the lane has a gap, the bad run rises, the new period counts as bad, the last good number is kept
and the expectation advances by one, and the eighth in a row loses the lock and sets the latch (R2, R8, R9, R10, R174). When
the window ends is log 14. Choices of the model: log 3, log 15. -/
def Obligations.LostBlock : Prop :=
  ∀ (s : State) (c : Instr), s.prog.state = .locked →
    (c = .lostBlock ∨ ∃ a l, c = .programBlock a l ∧ (a && programGood l) = false) →
    ∃ t : State, exec c s = .next t ∧ t.prog.lastGood = s.prog.lastGood ∧ t.prog.badRun = s.prog.badRun + 1 ∧ t.prog.expected = s.prog.expected + 1 ∧
      t.prog.state = (if 8 ≤ s.prog.badRun + 1 then .seek else .locked) ∧
      (8 ≤ s.prog.badRun + 1 → t.lockLost = true) ∧ t.laneLoss = true ∧ t.asm = ⟨.waitStart, [], 0⟩ ∧
      t.outSeq = s.outSeq + 1 ∧ t.periodOpen = true ∧ t.sense = s.sense ∧
      (let w := s.windowCount + if s.periodOpen then 1 else 0
        let a := s.integrityAcc + if s.periodOpen = true ∧ s.periodLocked = false then 1 else 0
        t.windowCount = (if 1200 ≤ w then 0 else w) ∧ t.integrityCount = (if 1200 ≤ w then a else s.integrityCount) ∧
          t.integrityAcc = (if 1200 ≤ w then 0 else a) + 1) ∧
      ∀ i, (t.screen i).tracker = (s.screen i).absentUpdate.tracker

/-- SENSE IN takes a good block in LOCKED, and the third in sequence in CONFIRM, which completes the lock: its number
becomes the last good, the bad run is 0, every feed's last sense code is the one it carries, and every feed's MISMATCH
source makes one evaluation step, with the level code filed under the block's number less the screen's sense lag, a held
one where that entry is missing or the feed is folded; a feed raised under FOLD folds, and no other source moves. A lost
block in LOCKED raises the bad run, the eighth in a row loses the lock, and nothing else changes, every source's step
being held (R12, R93, R94, R102, R116). That the fault flag is bit 0 of the fault byte whatever bits 7..1 hold, which R186
does not name, is the model's choice (log 36). Choices of the model: log 15. -/
def Obligations.SenseBlocks : Prop :=
  ∀ s : State,
    (∀ l, senseGood l = true →
      (s.sense.state = .locked ∨
        s.sense.state = .confirm ∧ seqOf l = s.sense.confirmSeq + 1 ∧ 3 ≤ s.sense.confirmCount + 1) →
      ∃ t : State, exec (.senseBlock true l) s = .next t ∧ t.sense.state = .locked ∧ t.sense.lastGood = some (seqOf l) ∧
        t.sense.badRun = 0 ∧ t = { s with sense := t.sense, screens := t.screens, alarms := t.alarms } ∧
        (s.sense.state = .locked → t.sense = { s.sense with lastGood := some (seqOf l), badRun := 0 }) ∧
        (∀ id, (∀ i k, id ≠ .mismatch i k) → t.source id = s.source id) ∧
        ∀ (i : Fin 12) (k : Fin 16),
          let f := s.feedSet i k
          let code := fieldAt l (6 + 3 * (16 * i.val + k.val)) 2
          let fault := (byteAt l (6 + 3 * (16 * i.val + k.val) + 2)).getLsbD 0
          let entry := (s.feed i k).meter.ring.find? fun e =>
            decide (e.1 = seqOf l - BitVec.ofNat 16 (s.screen i).live.senseLag)
          let raw := if (s.feed i k).folded then none else entry.map fun e => decide (0 < f.tolerance ∧
            (fault = true ∨ f.senseFloor ≤ e.2 ∧ code * 256 < e.2 * f.tolerance))
          let x := (s.feed i k).mismatch.evaluate f.mismatchHold f.mismatchRelease raw
          (t.feed i k).meter = { (s.feed i k).meter with lastSense := code } ∧
            (t.feed i k).mismatch.state = x.1.state ∧ (t.feed i k).mismatch.count = x.1.count ∧
            (t.feed i k).mismatch.latched = x.1.latched ∧
            (t.feed i k).folded = ((s.feed i k).folded || f.fold && decide (x.2 = some true))) ∧
    (s.sense.state = .locked → exec .lostSenseBlock s = .next { s with sense :=
      { s.sense with badRun := s.sense.badRun + 1, state := if 8 ≤ s.sense.badRun + 1 then .seek else .locked } })

/-- The end of an integrity window and a screen's dropout limit, each where it is due (R10, R17, R162). Choices of the
model: log 2, log 14. -/
def Obligations.WindowAndDropout : Prop :=
  (∀ s : State, 1200 ≤ s.windowCount → exec .integrityWindowEnd s =
    .next { s with integrityCount := s.integrityAcc, integrityAcc := 0, windowCount := 0 }) ∧
  ∀ (s : State) (i : Fin 12), (s.screen i).tracker.state = .dropout → (s.screen i).tracker.dropouts = 1199 →
    ∃ t : State, exec (.dropoutLimit i) s = .next t ∧
      (t.screen i).tracker = ⟨.absent, 0, 255, (s.screen i).tracker.rate, (s.screen i).tracker.lastPos, 0⟩ ∧
      (t.screen i).tracking = false ∧ (t.screen i).enginePos = (s.screen i).enginePos ∧
      (t.screen i).pointer = (s.screen i).pointer ∧ (t.screen i).cues = (s.screen i).cues ∧
      (∀ j, j ≠ i → t.screen j = s.screen j) ∧ t = { s with screens := t.screens }

/-! ## Decode, feed chain and meter -/

/-- A decoded sample is the exact sum, rounded half up: given as it is and unclipped inside the 24-bit range, and outside it
the end of the range, marked clipped (R39, R40). -/
def Obligations.DecodeRoundsAndClips : Prop :=
  ∀ row xs : List Int,
    let r := (List.zipWith (· * ·) row xs).sum
    let y := decodeSample row xs
    y.value ≤ 8388607 ∧ -8388608 ≤ y.value ∧
      (y.clip = false ↔ 16384 * y.value ≤ r + 8192 ∧ r + 8192 < 16384 * (y.value + 1)) ∧
      (y.clip = true → y.value = if r < 0 then -8388608 else 8388607) ∧
      let q := (r + 8192) / 16384
      (-8388608 ≤ q → q ≤ 8388607 → y = ⟨q, false⟩) ∧ (q < -8388608 → y = ⟨-8388608, true⟩) ∧
        (8388607 < q → y = ⟨8388607, true⟩)

/-- The effective matrix and the fold states: out feeds and tracks at or above the track count have zero coefficients, every
coefficient has 16 bits, a feed's coefficient is its base one with the fold addends of the out feeds that fold into it, each
rounded half up and saturated once at the end, and an out feed is FOLDED exactly where it has a partner that is not out
(R34, R35, R36). Choices of the model: log 21. -/
def Obligations.EffectiveMatrix : Prop :=
  ∀ (f : Format) (out : Fin 16 → Bool) (k : Fin 16) (t : Nat),
    -32768 ≤ effective f out k t ∧ effective f out k t ≤ 32767 ∧
      (out k = true ∨ f.trackCount ≤ t → effective f out k t = 0) ∧
      (out k = false → t < f.trackCount → effective f out k t = sat16 (f.base k.val t +
        ((List.finRange 16).map fun j => if out j = true ∧ f.partner j = some k then
          (f.base j.val t * (min f.foldGain 32768 : Nat) + 16384) / 32768 else 0).sum)) ∧
      (out k = false → t < f.trackCount → (∀ j, out j = true → f.partner j ≠ some k) →
        effective f out k t = sat16 (f.base k.val t)) ∧
      (∀ j, out k = false → t < f.trackCount → out j = true → f.partner j = some k →
        (∀ q, q ≠ j → out q = true → f.partner q ≠ some k) →
        effective f out k t =
          sat16 (f.base k.val t + (f.base j.val t * (min f.foldGain 32768 : Nat) + 16384) / 32768)) ∧
      (foldStateOf f out k = .none ↔ out k = false) ∧
      (foldStateOf f out k = .folded ↔ out k = true ∧ ∃ p, f.partner k = some p ∧ out p = false)

/-- Loading a ramp keeps the current value, begins from it, takes the target, and takes a count of 0 as 1; the ramp then
stands at its target after that many boundaries and is idle; one loaded with the value it stands at stays there (R54). -/
def Obligations.RampReachesTarget : Prop :=
  ∀ (r : Ramp) (target count : Nat),
    r.load target count = ⟨r.current, r.current, target, max 1 count⟩ ∧
      (Ramp.step^[max 1 count] (r.load target count)).current = target ∧
      (Ramp.step^[max 1 count] (r.load target count)).remaining = 0 ∧
      (∀ n, (Ramp.step^[n] (r.load target count)).remaining = max 1 count - n) ∧
      (r.current = target → ∀ n, (Ramp.step^[n] (r.load target count)).current = target)

/-- The block gain is formed in three rounded steps, the second held at 65535, never passes 65535 and is 0 for an out feed
(R44); the gain stage and a section give the rounded result where it has 24 bits, with the clip mark it came with, and else
the end of the range, marked clipped (R45, R46, R47); the delay
line gives out the sample written D sample periods earlier (R49); the level never passes 2^30, a block of 24-bit samples has
an energy of at most 2^30, and the sense history ring holds at most 16 entries, the newest first, one for each sequence
number (R91, R92). -/
def Obligations.MeterBounds : Prop :=
  (∀ m u t step : Nat, blockGain m u t (protectFactor step) false ≤ 65535 ∧
    blockGain m u t (protectFactor step) true = 0) ∧
  (∀ m u t p : Nat, blockGain m u t p false =
    (min 65535 (((m * u + 16384) / 32768 * t + 16384) / 32768) * p + 16384) / 32768) ∧
  (∀ (g : Nat) (d : Sample),
    let r := (d.value * g + 16384) / 32768
    let y := gainStage g d
    y.value ≤ 8388607 ∧ -8388608 ≤ y.value ∧ (-8388608 ≤ r → r ≤ 8388607 → y = ⟨r, d.clip⟩) ∧
      (r < -8388608 → y = ⟨-8388608, true⟩) ∧ (8388607 < r → y = ⟨8388607, true⟩)) ∧
  (∀ (c : Coeffs) (st : Biquad) (x : Sample),
    let r := (c.b0 * x.value + c.b1 * st.x1 + c.b2 * st.x2 - c.a1 * st.y1 - c.a2 * st.y2 + 2097152) / 4194304
    let y := sectionStep c st x
    y.1.value ≤ 8388607 ∧ -8388608 ≤ y.1.value ∧ (-8388608 ≤ r → r ≤ 8388607 → y.1 = ⟨r, x.clip⟩) ∧
      (r < -8388608 → y.1 = ⟨-8388608, true⟩) ∧ (8388607 < r → y.1 = ⟨8388607, true⟩) ∧ y.2 = ⟨x.value, st.x1, y.1.value, st.y1⟩) ∧
  (∀ (d : Nat) (line : List Sample) (x : Sample), line.length = 2048 → d < 2048 →
    (delayStage d line x).2.length = 2048 ∧ (delayStage d line x).2.head? = some x ∧
      (delayStage d line x).1 = if d = 0 then x else line.getD (d - 1) ⟨0, false⟩) ∧
  (∀ l : List Sample, l.length = 40 → (∀ y ∈ l, -8388608 ≤ y.value ∧ y.value ≤ 8388607) →
    blockEnergy l ≤ 2 ^ 30) ∧
  (∀ level energy : Nat, level ≤ 2 ^ 30 → energy ≤ 2 ^ 30 → nextLevel level energy ≤ 2 ^ 30) ∧
  ∀ (ring : List (Half × Nat)) (q : Half) (c : Nat), (ring.map Prod.fst).Nodup →
    (fileCode ring q c).length ≤ 16 ∧ (fileCode ring q c).head? = some (q, c) ∧
      ((fileCode ring q c).map Prod.fst).Nodup

/-! ## Alarms and protection -/

/-- ALARM_RAISED where the raw condition of the source is true and its hold is reached: the source is ACTIVE and latched
with count 0; the transition is reported, under NOTIFY for a feed source, with the number of the feed block metered last
for OVER and SILENT, of the sense block taken last for MISMATCH, and the outgoing one for the rest; a feed's protect step
rises under PROTECT and a feed folds under FOLD with its screen's matrix rebuilt; every other source, and everything but
screens, sources and the alarm list, is left (R37, R97, R98, R99, R111, R116). Anywhere else the command changes nothing.
Choices of the model: log 2, log 20. -/
def Obligations.AlarmRaised : Prop :=
  ∀ (s : State) (src : SourceId),
    (s.raiseDue src = true ↔ s.rawOf src = some true ∧
      ((s.source src).state = .clear ∧ s.holdOf src ≤ 1 ∨
        (s.source src).state = .onset ∧ s.holdOf src ≤ (s.source src).count + 1)) ∧
    (s.raiseDue src = false → exec (.alarmRaised src) s = .next s) ∧
    (s.raiseDue src = true →
      ∃ t : State, exec (.alarmRaised src) s = .next t ∧ (t.source src).state = .active ∧ (t.source src).count = 0 ∧
        (t.source src).latched = true ∧ (∀ id, id ≠ src → t.source id = s.source id) ∧
        s.reported t src true (s.stepSeq src) ∧
        (∀ i k, src = .overload i k ∨ src = .silent i k → ∀ e ∈ (s.feed i k).meter.ring.head?, s.stepSeq src = e.1) ∧
        (∀ i k, src = .mismatch i k → ∀ q ∈ s.sense.lastGood, s.stepSeq src = q) ∧
        ((∀ i k, src ≠ .overload i k ∧ src ≠ .silent i k ∧ src ≠ .mismatch i k) → s.stepSeq src = s.outSeq) ∧
        (∀ i k, src = .overload i k → (t.feed i k).protect =
          if (s.feedSet i k).protect then ⟨min 4 ((s.feed i k).protect.step + 1), 0, 0⟩ else (s.feed i k).protect) ∧
        (∀ i k, src = .mismatch i k → (s.feedSet i k).fold = true → (t.feed i k).folded = true ∧
          ∀ q, (t.feed i q).row = effectiveRow (s.formatFor (s.screen i).effectiveCode) (t.screen i).out q ∧
            (t.feed i q).fold = foldStateOf (s.formatFor (s.screen i).effectiveCode) (t.screen i).out q) ∧
        ((∀ i k, src ≠ .mismatch i k ∨ (s.feedSet i k).fold = false) → ∀ i k, (t.feed i k).folded = (s.feed i k).folded ∧
          (t.feed i k).row = (s.feed i k).row ∧ (t.feed i k).fold = (s.feed i k).fold) ∧
        (∀ i, t.screen i = { s.screen i with
          track := (t.screen i).track
          dropout := (t.screen i).dropout
          preset := (t.screen i).preset
          feeds := (t.screen i).feeds }) ∧
        (∀ i k, t.feed i k = { s.feed i k with
          overload := (t.feed i k).overload
          silent := (t.feed i k).silent
          mismatch := (t.feed i k).mismatch
          protect := (t.feed i k).protect
          folded := (t.feed i k).folded
          row := (t.feed i k).row
          fold := (t.feed i k).fold } ∧
          (src ≠ .overload i k → (t.feed i k).protect = (s.feed i k).protect) ∧
          (src ≠ .mismatch i k → (t.feed i k).folded = (s.feed i k).folded)) ∧
        t = { s with screens := t.screens, trunk := t.trunk, senselink := t.senselink, alarms := t.alarms })

/-- ALARM_CLEARED where the raw condition of the source is false and its release is reached: the source is CLEAR with
count 0 and keeps its latched flag; the transition is reported, under NOTIFY for a feed source, with the number that R98
gives the kind; under PROTECT the counts of a feed's protect record are 0; every other source, and everything but screens,
sources and the alarm list, is left (R97, R98, R99, R111). Anywhere else the command changes nothing. Choices of the
model: log 2, log 20. -/
def Obligations.AlarmCleared : Prop :=
  ∀ (s : State) (src : SourceId),
    (s.clearDue src = true ↔ s.rawOf src = some false ∧
      ((s.source src).state = .active ∧ s.releaseOf src ≤ 1 ∨
        (s.source src).state = .release ∧ s.releaseOf src ≤ (s.source src).count + 1)) ∧
    (s.clearDue src = false → exec (.alarmCleared src) s = .next s) ∧
    (s.clearDue src = true →
      ∃ t : State, exec (.alarmCleared src) s = .next t ∧ (t.source src).state = .clear ∧ (t.source src).count = 0 ∧
        (t.source src).latched = (s.source src).latched ∧ (∀ id, id ≠ src → t.source id = s.source id) ∧
        s.reported t src false (s.stepSeq src) ∧
        (∀ i k, src = .overload i k ∨ src = .silent i k → ∀ e ∈ (s.feed i k).meter.ring.head?, s.stepSeq src = e.1) ∧
        (∀ i k, src = .mismatch i k → ∀ q ∈ s.sense.lastGood, s.stepSeq src = q) ∧
        ((∀ i k, src ≠ .overload i k ∧ src ≠ .silent i k ∧ src ≠ .mismatch i k) → s.stepSeq src = s.outSeq) ∧
        (∀ i, t.screen i = { s.screen i with
          track := (t.screen i).track
          dropout := (t.screen i).dropout
          preset := (t.screen i).preset
          feeds := (t.screen i).feeds }) ∧
        (∀ i k, t.feed i k = { s.feed i k with
          overload := (t.feed i k).overload
          silent := (t.feed i k).silent
          mismatch := (t.feed i k).mismatch
          protect := if src = .overload i k ∧ (s.feedSet i k).protect = true
            then ⟨(s.feed i k).protect.step, 0, 0⟩ else (s.feed i k).protect }) ∧
        t = { s with screens := t.screens, trunk := t.trunk, senselink := t.senselink, alarms := t.alarms })

/-- The evaluation step of a source, state by state, a held step changing nothing; a hold of h raises a CLEAR source at the
h-th consecutive raw-true step and no sooner, a hold of 0 or 1 at the first; a release of r clears an ACTIVE source at the
r-th consecutive raw-false step likewise; after reset every source is CLEAR with count 0 (R97). -/
def Obligations.HoldCountsSteps : Prop :=
  (∀ (x : Source) (h r : Nat),
    let t := x.evaluate h r (some true)
    let f := x.evaluate h r (some false)
    x.evaluate h r none = (x, none) ∧
      (x.state = .clear → f = (x, none) ∧
        (1 < h → t.2 = none ∧ t.1.state = .onset ∧ t.1.count = 1) ∧
        (h ≤ 1 → t.2 = some true ∧ t.1.state = .active ∧ t.1.count = 0)) ∧
      (x.state = .onset → f.2 = none ∧ f.1.state = .clear ∧ f.1.count = 0 ∧
        (x.count + 1 < h → t.2 = none ∧ t.1.state = .onset ∧ t.1.count = x.count + 1) ∧
        (h ≤ x.count + 1 → t.2 = some true ∧ t.1.state = .active ∧ t.1.count = 0)) ∧
      (x.state = .active → t = (x, none) ∧
        (1 < r → f.2 = none ∧ f.1.state = .release ∧ f.1.count = 1) ∧
        (r ≤ 1 → f.2 = some false ∧ f.1.state = .clear ∧ f.1.count = 0)) ∧
      (x.state = .release → t.2 = none ∧ t.1.state = .active ∧ t.1.count = 0 ∧
        (x.count + 1 < r → f.2 = none ∧ f.1.state = .release ∧ f.1.count = x.count + 1) ∧
        (r ≤ x.count + 1 → f.2 = some false ∧ f.1.state = .clear ∧ f.1.count = 0))) ∧
  (∀ (x : Source) (h r n : Nat), 1 ≤ n →
    let up := (fun y : Source => (y.evaluate h r (some true)).1)^[n] x
    let down := (fun y : Source => (y.evaluate h r (some false)).1)^[n] x
    (x.state = .clear → (up.state = .active ↔ h ≤ n)) ∧ (x.state = .active → (down.state = .clear ↔ r ≤ n))) ∧
  ∀ id, (State.reset.source id).state = .clear ∧ (State.reset.source id).count = 0

/-- The alarm queue takes a report in one of three ways: the source's record in place, a new record at the tail, or a
deferral with the source's flag set and its count one higher, held at 255 (R125, R126, R127). -/
def Obligations.AlarmQueueTakes : Prop :=
  ∀ (s : State) (id : SourceId) (raised : Bool) (q : Half) (v : Option Nat),
    (s.queued id = true → s.takeReport id raised q v = { s with alarms := s.alarms.map fun r =>
      if r.src = id then ⟨r.src, raised, min 255 (r.transitions + 1), q, v⟩ else r }) ∧
    (s.queued id = false → (s.source id).unreported = false → s.alarms.length < 64 →
      s.takeReport id raised q v = { s with alarms := s.alarms ++ [⟨id, raised, 1, q, v⟩] }) ∧
    (s.queued id = false → ((s.source id).unreported = true ∨ 64 ≤ s.alarms.length) →
      s.takeReport id raised q v = s.setSource id { s.source id with
        unreported := true, unreportedCount := min 255 ((s.source id).unreportedCount + 1) } ∧
      (s.takeReport id raised q v).alarms = s.alarms ∧
      (s.takeReport id raised q v).source id = { s.source id with
        unreported := true, unreportedCount := min 255 ((s.source id).unreportedCount + 1) } ∧
      (∀ id2, id2 ≠ id → (s.takeReport id raised q v).source id2 = s.source id2) ∧
      ∀ i, (s.takeReport id raised q v).anyActive i = s.anyActive i ∧
        (s.takeReport id raised q v).anyLatched i = s.anyLatched i)

/-- PROTECT_ESCALATION and PROTECT_RECOVERY where they are due: the OVER step with the outcome ACTIVE that reaches a count
of 256, from ACTIVE or back from RELEASE, raises the step by one, held at 4; the OVER step with the outcome CLEAR that
reaches 2400 lowers it by one; the counts are as the rules give them, and nothing else changes (R100, R111, R112, R113).
Choices of the model: log 2. -/
def Obligations.ProtectSteps : Prop :=
  ∀ (s : State) (i : Fin 12) (k : Fin 16), (s.feedSet i k).protect = true →
    ((s.feed i k).overload.state = .active → (s.feedSet i k).overRelease ≤ (s.feed i k).meter.peak →
      (s.feed i k).protect.escalation = 255 →
      exec (.protectEscalation i k) s = .next (s.onFeed i k fun y =>
        { y with protect := ⟨min 4 (y.protect.step + 1), 0, 0⟩ })) ∧
    ((s.feed i k).overload.state = .release → (s.feedSet i k).overRelease ≤ (s.feed i k).meter.peak →
      (s.feed i k).protect.escalation = 255 →
      exec (.protectEscalation i k) s = .next (s.onFeed i k fun y =>
        { y with
          overload := { y.overload with state := .active, count := 0 }
          protect := ⟨min 4 (y.protect.step + 1), 0, 0⟩ })) ∧
    ((s.feed i k).overload.state = .clear →
      ((s.feedSet i k).overOnset = 0 ∨ (s.feed i k).meter.peak < (s.feedSet i k).overOnset) →
      (s.feed i k).protect.recovery = 2399 →
      exec (.protectRecovery i k) s = .next (s.onFeed i k fun y =>
        { y with protect := ⟨y.protect.step - 1, y.protect.escalation, 0⟩ }))

/-! ## The table store, presets and swaps -/

/-- SCAN_PAGE_READ before a slot's last page: the page's bytes join those read, and the scan takes the port for the next
page. At the last page the slot is classified by its mark: EMPTY for BLANK, INVALID for OPEN, and for CLOSED VALID with
its copies where the image passes its checks, a format entering the cache, else INVALID. The scan goes on to the next
slot; after the last one each screen has its boot choice made, the first boot load in screen order takes the port, and
with none the device is RUNNING with the mute targets recomputed. After reset the first page is at the port for the first
block period; a page that no command ends in its period ends as the next period opens, and that period is the next page's
(R24, R60, R63, R74, R75, R87, R88). Choices of the model: log 5, log 6, log 37. -/
def Obligations.ScanReadsPages : Prop :=
  State.reset.port = some ⟨.scan, 1⟩ ∧ State.reset.scan = some ⟨0, 0⟩ ∧
  (∀ (s : State) (c : Scan) (age : Nat), s.periodOpen = true → s.prog.state ≠ .locked → s.holdBuf = none →
    s.port = some ⟨.scan, age⟩ → 1 ≤ age → s.scan = some c → c.page + 1 < (scanSlot c.place).pages →
    ∃ t : State, exec .blockPeriod s = .next t ∧ t.port = some ⟨.scan, 1⟩ ∧ t.scan = some ⟨c.place, c.page + 1⟩ ∧
      t.scanBuf = s.scanBuf ++ s.storedPage (scanSlot c.place) c.page) ∧
  ∀ (s : State) (c : Scan) (u : Upset) (age : Nat), s.port = some ⟨.scan, age⟩ → 1 ≤ age → s.scan = some c →
    (c.page + 1 < (scanSlot c.place).pages → exec (.scanPageRead u) s = .next { s with
      port := some ⟨.scan, 0⟩
      scan := some ⟨c.place, c.page + 1⟩
      scanBuf := s.scanBuf ++ delivered u (s.storedPage (scanSlot c.place) c.page) }) ∧
    ((scanSlot c.place).pages ≤ c.page + 1 →
      let id := scanSlot c.place
      let img := (s.scanBuf ++ delivered u (s.storedPage id c.page)).take id.imageSize
      let valid := (s.slot id).mark = .closed ∧ imageOk id img = true
      ∃ t : State, exec (.scanPageRead u) s = .next t ∧
        (valid → (t.slot id).state = .valid ∧ (t.slot id).boot = imageBoot id img ∧ (t.slot id).label = imageLabel id img) ∧
        (¬ valid → (t.slot id).state = (if (s.slot id).mark = .blank then .empty else .invalid) ∧
          (t.slot id).boot = false ∧ ∀ b ∈ (t.slot id).label, b = 0) ∧
        (∀ j, j ≠ id → t.slot j = { s.slot j with mark := (t.slot j).mark }) ∧
        (∀ q : Fin 16, t.cache[q] =
          match id with
          | .format f => if valid ∧ q = f.succ then some (formatOf img) else s.cache[q]
          | .room _ _ => s.cache[q]) ∧
        t.scanBuf = [] ∧
        (∀ h : c.place.val + 1 < 63, t.scan = some ⟨⟨c.place.val + 1, h⟩, 0⟩ ∧
          (∀ j, (t.slot j).mark = (s.slot j).mark) ∧
          t = { s with
            slots := t.slots, screens := t.screens, cache := t.cache, port := some ⟨.scan, 0⟩, scan := t.scan
            scanBuf := [] }) ∧
        (63 ≤ c.place.val + 1 → t.scan = none ∧ t.array = s.array ∧ t.staging = s.staging ∧
          ((∀ i, (s.screen i).running = none) →
            (∀ i n, t.bootChoice i = .slot n → (t.screen i).running.map Operation.ref = some (.slot n)) ∧
            (∀ i, t.bootChoice i = .safe → (t.screen i).running = none) ∧
            (∀ i, t.bootChoice i ≠ .safe → (∀ j, j < i → t.bootChoice j = .safe) →
              t.device = s.device ∧ t.port = some ⟨.load i, 0⟩) ∧
            ((∀ i, t.bootChoice i = .safe) → t.device = .running ∧ ∀ i, (t.screen i).mute.target =
              if (s.screen i).muted = true ∨ (s.screen i).phase = .fadingOut then 0 else 32768))))

/-- PRESET_LOAD_END while RUNNING: the load buffer holds the image with its slot as source to be, or on a bad CRC the SAFE
set; the operation and the swap phase are FADING-OUT; live set, array and staging buffer are left. While STARTING the same
content is live at once, the feeds' filters, delay lines, protect records and fold set zeroed, the swap phase as it was, and
with no other boot load left the device is RUNNING with the mute targets recomputed (R60, R80, R81, R88). A field out of
range behind a right CRC is log 23, the SAFE set's coefficients and sense floor are log 34, the unnamed bits of an action mask log 36.
Choices of the model: log 5, log 6. -/
def Obligations.PresetLoadEnds : Prop :=
  ∀ (s : State) (i : Fin 12) (n : Fin 4) (st : Stage) (age : Nat) (u : Upset),
    s.port = some ⟨.load i, age⟩ → 1 ≤ age → (s.screen i).running = some ⟨.slot n, st⟩ →
    let b : LoadBuffer := if imageCrcOk (.room i n) (delivered u (s.slotImage (.room i n))) then
      ⟨roomOf (delivered u (s.slotImage (.room i n))), .slot n⟩ else ⟨RoomSet.safe, .safe⟩
    (s.device = .running →
      ∃ t : State, exec (.presetLoadEnd u) s = .next t ∧ (t.screen i).phase = .fadingOut ∧
        (t.screen i).running = some ⟨.slot n, .fadingOut⟩ ∧ (t.screen i).loadBuf = some b ∧
        (t.screen i).live = (s.screen i).live ∧ (t.screen i).source = (s.screen i).source ∧
        (t.screen i).cues = (s.screen i).cues ∧ (t.screen i).feeds = (s.screen i).feeds ∧
        (∀ j, j ≠ i → t.screen j = { s.screen j with running := (t.screen j).running }) ∧
        t = { s with
          screens := t.screens, slots := t.slots, port := t.port, refreshes := t.refreshes, commit := t.commit }) ∧
    (s.device = .starting →
      ∃ t : State, exec (.presetLoadEnd u) s = .next t ∧ (t.screen i).live = b.room ∧ (t.screen i).source = b.source ∧
        (t.screen i).stale = false ∧ (t.screen i).loadBuf = none ∧ (t.screen i).running = none ∧
        (t.screen i).phase = (s.screen i).phase ∧ (t.screen i).mute.current = (s.screen i).mute.current ∧
        (∀ k, (t.feed i k).folded = false ∧ (t.feed i k).protect = ⟨0, 0, 0⟩ ∧ (t.feed i k).biquads = zeroBiquads ∧
          (t.feed i k).delay = zeroDelay) ∧
        ((∃ j, j ≠ i ∧ (s.screen j).running ≠ none) → t.device = .starting ∧
          ∀ j, (t.screen j).mute = (s.screen j).mute) ∧
        ((∀ j, j ≠ i → (s.screen j).running = none) → t.device = .running ∧ ∀ j, (t.screen j).mute.target =
          if (s.screen j).muted = true ∨ (s.screen j).phase = .fadingOut then 0 else 32768) ∧
        t = { s with
          device := t.device, screens := t.screens, slots := t.slots, port := t.port, refreshes := t.refreshes
          commit := t.commit, alarms := t.alarms })

/-- LIVE_SET_REPLACEMENT where a mute-zero indication is due: the load buffer's content is live, STALE is clear, filters,
delays and protect records are zeroed, the fold set is empty, every feed source is CLEAR with its latched flag kept, and
the screen fades in; master ramp, mute flag, screen sources and the other screens are left (R33, R50, R81, R106). Choices
of the model: log 12. -/
def Obligations.LiveSetReplaced : Prop :=
  ∀ (s : State) (i : Fin 12) (b : LoadBuffer), (s.screen i).phase = .fadingOut → (s.screen i).muteZero = true →
    (s.screen i).loadBuf = some b →
    ∃ t : State, exec (.liveSetReplacement i) s = .next t ∧ (t.screen i).live = b.room ∧ (t.screen i).source = b.source ∧
      (t.screen i).stale = false ∧ (t.screen i).loadBuf = none ∧ (t.screen i).phase = .fadingIn ∧
      (t.screen i).master = (s.screen i).master ∧ (t.screen i).muted = (s.screen i).muted ∧
      (t.screen i).cues = (s.screen i).cues ∧
      (∀ k, (t.feed i k).folded = false ∧ (t.feed i k).protect = ⟨0, 0, 0⟩ ∧ (t.feed i k).biquads = zeroBiquads ∧
        (t.feed i k).delay = zeroDelay ∧ (t.feed i k).meter = (s.feed i k).meter) ∧
      (∀ id ∈ feedSources i, (t.source id).state = .clear ∧ (t.source id).count = 0 ∧
        (t.source id).latched = (s.source id).latched) ∧
      (∀ id ∈ screenSources i, t.source id = s.source id) ∧ (∀ j, j ≠ i → t.screen j = s.screen j) ∧
      t = { s with screens := t.screens, alarms := t.alarms }

/-- The 12th boundary after the replacement ends the operation, and SWAP_END runs the same end where it stands to be carried
out: with no pending operation the phase is NONE and the mute ramp is loaded only where its target changes; a pending slot
operation waits for the port, a pending SAFE one fades out. Before the 12th boundary the count rises, and SWAP_END changes
nothing. Nothing else changes (R59, R79, R82). The SAFE set's coefficients and sense floor are log 34. Choices of the
model: log 2, log 28. -/
def Obligations.SwapEnds : Prop :=
  ∀ (s : State) (i : Fin 12), (s.screen i).phase = .fadingIn →
    ((s.screen i).fadeIn < 12 → exec (.swapEnd i) s = .next s) ∧
    (∀ n, n < 11 → (s.screen i).fadeIn = n → s.fadeInStep i = s.setScreen i { s.screen i with fadeIn := n + 1 }) ∧
    let target := if s.device = .starting ∨ (s.screen i).muted = true then 0 else 32768
    let x : Screen := { s.screen i with
      running := none
      phase := .none
      fadeIn := 0
      waiting := none
      mute := if target = (s.screen i).mute.target then (s.screen i).mute
        else ⟨(s.screen i).mute.current, (s.screen i).mute.current, target, 12⟩ }
    let Ended (t : State) : Prop :=
      ((s.screen i).waiting = none → t = s.setScreen i x) ∧
        (∀ n, (s.screen i).waiting = some (.slot n) → s.port ≠ none →
          t = s.setScreen i { x with running := some ⟨.slot n, .loadWait⟩ }) ∧
        ((s.screen i).waiting = some .safe → (t.screen i).running = some ⟨.safe, .fadingOut⟩ ∧
          (t.screen i).loadBuf = some ⟨RoomSet.safe, .safe⟩ ∧ (t.screen i).phase = .fadingOut ∧
          (t.screen i).mute.target = 0 ∧ (t.screen i).mute.current = (s.screen i).mute.current ∧
          t = s.setScreen i { x with
            running := (t.screen i).running, loadBuf := (t.screen i).loadBuf, phase := .fadingOut, muteZero := false
            mute := (t.screen i).mute })
    ((s.screen i).fadeIn = 11 → Ended (s.fadeInStep i)) ∧
      ((s.screen i).fadeIn = 12 → ∃ t : State, exec (.swapEnd i) s = .next t ∧ Ended t)

/-- FORMAT_REFRESH_END of a slot not erased meanwhile: a good CRC replaces the cache entry by the image's fields, a bad
one makes it absent; of one erased meanwhile what was read is discarded, and the mark for that is gone; every other entry,
the array and the slot records are left (R25, R26, R72). A field out of range behind a right CRC is log 23. Choices of the
model: log 5, log 6. -/
def Obligations.FormatRefreshed : Prop :=
  ∀ (s : State) (f : Fin 15) (age : Nat) (u : Upset), s.port = some ⟨.refresh f, age⟩ → 1 ≤ age →
    ∃ t : State, exec (.formatRefreshEnd u) s = .next t ∧
      (s.dropRefresh = true → t.cache = s.cache) ∧
      (s.dropRefresh = false → ∀ c : Fin 16, t.cache[c] = if c = f.succ then
        (if imageCrcOk (.format f) (delivered u (s.slotImage (.format f)))
          then some (formatOf (delivered u (s.slotImage (.format f)))) else none)
        else s.cache[c]) ∧
      (∀ id, t.slot id = { s.slot id with mark := (t.slot id).mark }) ∧
      t = { s with
        screens := t.screens, slots := t.slots, port := t.port, refreshes := t.refreshes, commit := t.commit
        cache := t.cache, dropRefresh := false }

/-- PAGE_WRITE_END: the page holds the staging buffer's bytes, FFh beyond the image's end, every other byte of the array
is left, and the page counts as written; an abandon asked for ends the commit ABANDONED with the slot INVALID (R68, R70).
Choices of the model: log 5. -/
def Obligations.PageWritten : Prop :=
  ∀ (s : State) (age : Nat), Memory.wf arrayDefault s.array = true → s.port = some ⟨.commitWrite, age⟩ → 1 ≤ age →
    ∃ t : State, exec .pageWriteEnd s = .next t ∧
      (∀ j, j < 256 → Memory.read arrayDefault t.array (s.commit.target.base + 256 * s.commit.next + j) =
        if 256 * s.commit.next + j < s.commit.target.imageSize
          then Memory.read stagingDefault s.staging (256 * s.commit.next + j) else 255) ∧
      (∀ a, a < s.commit.target.base + 256 * s.commit.next ∨ s.commit.target.base + 256 * s.commit.next + 256 ≤ a →
        Memory.read arrayDefault t.array a = Memory.read arrayDefault s.array a) ∧
      t.commit.written = s.commit.written + 1 ∧ t.commit.target = s.commit.target ∧
      t = { s with
        array := t.array, screens := t.screens, slots := t.slots, port := t.port, refreshes := t.refreshes
        commit := t.commit, cache := t.cache, commitEnded := t.commitEnded, storeNotices := t.storeNotices } ∧
      (s.commit.abandon = true → t.commit.last = .abandoned ∧ t.commitEnded = true ∧
        (t.slot s.commit.target).state = .invalid)

/-- PAGE_VERIFY_END: an unequal page ends the commit VERIFY-FAIL with the slot INVALID; an equal page before the last goes
on to the next, which is verified at once where nothing comes first; after the last equal page a good CRC ends the commit
OK with the slot VALID and its mark CLOSED, a bad one VERIFY-FAIL with the slot INVALID; an abandon asked for ends the
commit ABANDONED whatever was read, with the slot INVALID where a page was written. Each end clears the record to IDLE,
sets COMMIT-ENDED and queues one STORE notice; the array and the staging buffer are left (R68, R69, R70, R71). That no
erase waits for the same slot, which R72 sees to, is a premise of the mark's clause. Choices of the model: log 5, log 6,
log 29. -/
def Obligations.PageVerified : Prop :=
  ∀ (s : State) (age : Nat) (u : Upset), s.port = some ⟨.commitVerify, age⟩ → 1 ≤ age →
    let id := s.commit.target
    let equal := delivered u (s.storedPage id s.commit.next) = s.stagedPage id s.commit.next
    let good := imageCrcOk id (s.stagedImage id) = true
    ∃ t : State, exec (.pageVerifyEnd u) s = .next t ∧
      t = { s with
        screens := t.screens, slots := t.slots, port := t.port, refreshes := t.refreshes, commit := t.commit
        cache := t.cache, commitEnded := t.commitEnded, storeNotices := t.storeNotices } ∧
      (s.commit.abandon = true →
        t.commit.state = .idle ∧ t.commit.last = .abandoned ∧ t.commit.abandon = false ∧ t.commitEnded = true ∧
        (t.slot id).state = (if s.commit.written = 0 then s.commit.previous else .invalid) ∧
        t.storeNotices = s.storeNotices ++ [⟨id, .abandoned⟩]) ∧
      (s.commit.abandon = false → ¬ equal ∨ id.pages ≤ s.commit.next + 1 ∧ ¬ good →
        t.commit.state = .idle ∧ t.commit.last = .verifyFail ∧ t.commitEnded = true ∧
        (t.slot id).state = .invalid ∧ t.storeNotices = s.storeNotices ++ [⟨id, .verifyFail⟩]) ∧
      (s.commit.abandon = false → equal → s.commit.next + 1 < id.pages →
        t.commit = { s.commit with state := t.commit.state, next := s.commit.next + 1 } ∧ t.commit.state ≠ .idle ∧
        t.commitEnded = s.commitEnded ∧ t.storeNotices = s.storeNotices ∧ t.cache = s.cache ∧
        (∀ j, t.slot j = { s.slot j with mark := (t.slot j).mark }) ∧
        (s.scan = none → s.findScreen Screen.loadWaits = none → s.refreshes = [] → s.engineWork = none →
          id.pages ≤ s.commit.written → t.commit.state = .verifying ∧ t.port = some ⟨.commitVerify, 0⟩)) ∧
      (s.commit.abandon = false → equal → id.pages ≤ s.commit.next + 1 → good →
        t.commit.state = .idle ∧ t.commit.last = .ok ∧ t.commitEnded = true ∧
        (t.slot id).state = .valid ∧ (t.slot id).boot = imageBoot id (s.stagedImage id) ∧
        (t.slot id).label = imageLabel id (s.stagedImage id) ∧
        ((∀ page, s.engineWork ≠ some (.erase id page)) → (t.slot id).mark = .closed) ∧
        t.storeNotices = s.storeNotices ++ [⟨id, .ok⟩])

/-- ERASE_PAGE_WRITE_END: the page is FFh and every other byte of the array is left; the last page writes the mark BLANK,
completes the reply and frees execution, and a message in the hold buffer is then taken where the reply queue has room, so
that its reply follows (R73, R176). That no commit in flight targets the slot, which R72 and R176 see to, is a premise of
the mark's clause. Choices of the model: log 5, log 13. -/
def Obligations.ErasePageWritten : Prop :=
  ∀ (s : State) (id : SlotId) (page age : Nat), Memory.wf arrayDefault s.array = true →
    s.port = some ⟨.engine, age⟩ → 1 ≤ age → s.engineWork = some (.erase id page) →
    ∃ t : State, exec .erasePageWriteEnd s = .next t ∧
      (∀ j, j < 256 → Memory.read arrayDefault t.array (id.base + 256 * page + j) = 255) ∧
      (∀ a, a < id.base + 256 * page ∨ id.base + 256 * page + 256 ≤ a →
        Memory.read arrayDefault t.array a = Memory.read arrayDefault s.array a) ∧
      (page + 1 < id.pages ∧ s.held ≠ none ∨ s.holdBuf = none ∨ 8 ≤ s.replies.length →
        t = { s with
          array := t.array, screens := t.screens, slots := t.slots, port := t.port, refreshes := t.refreshes
          commit := t.commit, engineWork := t.engineWork, held := t.held, replies := t.replies } ∧
        t.replies.length = s.replies.length) ∧
      (page + 1 < id.pages → s.held ≠ none → t.engineWork = some (.erase id (page + 1)) ∧ t.held = s.held ∧ t.replies = s.replies) ∧
      (id.pages ≤ page + 1 → (∀ r ∈ t.replies.take s.replies.length, r.complete = true) ∧
        ((s.holdBuf = none ∨ 8 ≤ s.replies.length) → t.engineWork = none ∧ t.held = none ∧
          (s.commit.state = .idle ∨ s.commit.target ≠ id → (t.slot id).mark = .blank)) ∧
        (s.holdBuf ≠ none → s.replies.length < 8 → t.holdBuf = none ∧ t.replies.length = s.replies.length + 1))

/-- FETCH_COMPLETE: the reply is complete and execution FREE, and a message in the hold buffer is then taken where the reply
queue has room, so that its reply follows; without one the staging buffer holds the image delivered from the offset on, its
other bytes and the array are left (R65, R176). Choices of the model: log 5, log 6, log 13. -/
def Obligations.FetchCompletes : Prop :=
  ∀ (s : State) (id : SlotId) (offset age : Nat) (u : Upset), Memory.wf stagingDefault s.staging = true →
    s.port = some ⟨.engine, age⟩ → 1 ≤ age → s.engineWork = some (.fetch id offset) →
    ∃ t : State, exec (.fetchComplete u) s = .next t ∧
      (∀ r ∈ t.replies.take s.replies.length, r.complete = true) ∧ t.array = s.array ∧
      (s.holdBuf ≠ none → s.replies.length < 8 → t.holdBuf = none ∧ t.replies.length = s.replies.length + 1) ∧
      (s.holdBuf = none ∨ 8 ≤ s.replies.length →
        (∀ j, j < id.imageSize → Memory.read stagingDefault t.staging (offset + j) =
          (delivered u (s.slotImage id)).getD j 0) ∧
        (∀ a, a < offset ∨ offset + id.imageSize ≤ a →
          Memory.read stagingDefault t.staging a = Memory.read stagingDefault s.staging a) ∧
        t = { s with
          staging := t.staging, screens := t.screens, slots := t.slots, port := t.port, refreshes := t.refreshes
          commit := t.commit, engineWork := none, held := none, replies := t.replies } ∧
        t.replies.length = s.replies.length)

/-! ## Booth lines and pins -/

/-- The line timers' events where they are due: a pulse ends with the cue level OFF, a stretch ends with the level at its
demand, a blink count steps on or returns to 0; no other line and nothing else changes (R167, R168, R169). Choices of the
model: log 2. -/
def Obligations.LineTimers : Prop :=
  ∀ (s : State) (n : Fin 24),
    ((s.line n).stretchTimer = 1 → exec (.stretchExpiry n) s = .next (s.setLine n
      { s.line n with stretchTimer := 0, level := s.demand (s.line n) })) ∧
    ((s.line n).pulse = 1 → ∃ t : State, exec (.pulseExpiry n) s = .next t ∧ (t.line n).pulse = 0 ∧
      (t.line n).cueLevel = false ∧
      ((s.line n).source = .cue → (s.line n).stretchTimer = 0 → (t.line n).level = false) ∧
      (∀ m, m ≠ n → t.line m = s.line m) ∧ t = { s with lines := t.lines }) ∧
    ((s.line n).level = true → (s.line n).blink = .slow →
      ((s.line n).blinkCount = 599 →
        exec (.blinkPhaseChange n) s = .next (s.setLine n { s.line n with blinkCount := 600 })) ∧
      ((s.line n).blinkCount = 1199 →
        exec (.blinkPhaseChange n) s = .next (s.setLine n { s.line n with blinkCount := 0 }))) ∧
    ((s.line n).level = true → (s.line n).blink = .fast →
      ((s.line n).blinkCount = 149 →
        exec (.blinkPhaseChange n) s = .next (s.setLine n { s.line n with blinkCount := 150 })) ∧
      ((s.line n).blinkCount = 299 →
        exec (.blinkPhaseChange n) s = .next (s.setLine n { s.line n with blinkCount := 0 }))) ∧
    ((s.line n).source = .alarmLive ∨ (s.line n).source = .alarmLatched →
      ((s.line n).blink = .slow → (s.line n).blinkCount < 1200 →
        ((s.line n).phase = true ↔ (s.line n).blinkCount ≤ 599)) ∧
      ((s.line n).blink = .fast → (s.line n).blinkCount < 300 →
        ((s.line n).phase = true ↔ (s.line n).blinkCount ≤ 149)))

/-- The LOCK input and the show lock: the input's change sets no lock; LOCK-SET sets the lock unless the commit in flight
targets the screen; LOCK-CLEAR is answered LOCKED while the input is asserted and clears the lock otherwise (R84, R85).
Choices of the model: log 16. -/
def Obligations.ShowLocks : Prop :=
  ∀ (s : State) (tag scr : Byte) (i : Fin 12) (v : Bool),
    exec (.lockInputChange v) s = .next { s with lockInput := v } ∧
    (s.ready → s.device = .running → screenOf scr = some i →
      (s.commitTargets i = false → exec (.lockSet tag scr) s = .next
        ((s.setScreen i { s.screen i with showLock := true }).replied ⟨0x1C, tag, scr, .done, false, [], true⟩)) ∧
      (s.commitTargets i = true → exec (.lockSet tag scr) s = .next
        (s.replied ⟨0x1C, tag, scr, .refusedState, false, [], true⟩)) ∧
      (s.lockInput = true → exec (.lockClear tag scr) s = .next
        (s.replied ⟨0x1D, tag, scr, .locked, false, [], true⟩)) ∧
      (s.lockInput = false → exec (.lockClear tag scr) s = .next
        ((s.setScreen i { s.screen i with showLock := false }).replied ⟨0x1D, tag, scr, .done, false, [], true⟩)))

/-- LINE-CONFIG replaces the line's configuration, clears its running state and drives it from the new source's demand;
LINE-DRIVE sets or pulses an owned CUE line and reports it; no other line and nothing else changes (R170, R171). Choices
of the model: log 16, log 32. -/
def Obligations.LineRequests : Prop :=
  ∀ (s : State) (tag scr : Byte), s.ready →
    (∀ (a b c d e f g : Byte) (n : Fin 24) (l : Line), lineConfigOf [a, b, c, d, e, f, g] = some (n, l) →
      exec (.lineConfig tag scr a b c d e f g) s = .next ((s.setLine n
        (if s.demand l then { l with level := true, stretchTimer := l.stretch * 12 } else { l with level := false })).replied
        ⟨0x15, tag, scr, .done, false, [], true⟩)) ∧
    (∀ (a b : Byte) (d : Half) (i : Fin 12) (n : Fin 24) (on : Bool) (p : Nat), s.device = .running →
      screenOf scr = some i → lineDriveOf ([a, b] ++ toBytes 2 d.toNat) = some (n, on, p) →
      (s.line n).owner = some i → (s.line n).source = .cue →
      ∃ t : State, exec (.lineDrive tag scr a b d) s = .next (t.replied
        ⟨0x16, tag, scr, .done, false, (t.line n).driveData, true⟩) ∧
        t = s.setLine n ({ s.line n with cueLevel := on, pulse := p }.follow on))

/-! ## The control lane -/

/-- The bytes of a message, taken by a reassembly that waits for a start and finds it at the first byte, are the message:
what is sent in the layout of R187 is what R173 to R175 read. -/
def Obligations.LaneReadsMessages : Prop :=
  ∀ (s : State) (kind tag screen : Byte) (body : List Byte), s.asm = ⟨.waitStart, [], 0⟩ → body.length ≤ 240 →
    s.laneBytes 0 0 (messageBytes kind tag screen body) =
      State.place { s with asm := ⟨.header, [], 0⟩ } ⟨kind, tag, screen, body⟩

/-- The arbiter of the return lane: a complete reply at the head of its queue first, with the event flags as its status byte
carries them, which its leaving clears, and a message in the hold buffer is then taken where it may; then the oldest mark
notice, then the oldest STORE notice, then the oldest alarm record, whose leaving builds a record for the first deferred
source in source order (R129, R176, R179, R182). Choices of the model: log 13. -/
def Obligations.ArbiterOrders : Prop :=
  ∀ s : State,
    (∀ r rest, s.replies = r :: rest → r.complete = true →
      let t := { s with
        replies := rest, tx := s.replyBytes r, laneLoss := false, crcReject := false, overrun := false
        commitEnded := false }
      (s.holdBuf = none ∨ s.held ≠ none ∨ 8 ≤ rest.length → s.beginMessage = t) ∧
      ∀ m, s.holdBuf = some m → s.held = none → rest.length < 8 →
        s.beginMessage = State.takeMessage { t with holdBuf := none } m) ∧
    ((∀ r ∈ s.replies.head?, r.complete = false) →
      (∀ n rest, s.marks = n :: rest → s.beginMessage = { s with marks := rest, tx := n.bytes }) ∧
      (s.marks = [] → ∀ n rest, s.storeNotices = n :: rest →
        s.beginMessage = { s with storeNotices := rest, tx := n.bytes }) ∧
      (s.marks = [] → s.storeNotices = [] → ∀ r rest, s.alarms = r :: rest →
        ((∀ id, (s.source id).unreported = false) → s.beginMessage = { s with alarms := rest, tx := r.bytes }) ∧
        ∀ l id l2, allSources = l ++ id :: l2 → (∀ j ∈ l, (s.source j).unreported = false) →
          (s.source id).unreported = true →
          s.beginMessage = State.setSource
            { s with
              alarms := rest ++
                [⟨id, (s.source id).isUp, (s.source id).unreportedCount, s.outSeq, s.reportValue id⟩]
              tx := r.bytes }
            id { s.source id with unreported := false, unreportedCount := 0 }) ∧
      (s.marks = [] → s.storeNotices = [] → s.alarms = [] → s.beginMessage = s))

/-- HOLD_BUFFER_TAKE: a held message is taken where execution is FREE and a reply has room, and nothing changes otherwise
(R176). Choices of the model: log 13. -/
def Obligations.HoldBufferTaken : Prop :=
  ∀ (s : State) (m : Message), s.holdBuf = some m →
    (s.held = none → s.replies.length < 8 → exec .holdBufferTake s = .next (State.takeMessage { s with holdBuf := none } m) ∧
      ∃ t : State, exec .holdBufferTake s = .next t ∧ t.holdBuf = none ∧ t.replies.length = s.replies.length + 1) ∧
    ((s.held ≠ none ∨ 8 ≤ s.replies.length) → exec .holdBufferTake s = .next s)

/-- A message that cannot be taken, execution being HELD or the reply queue full, goes to the hold buffer, or is discarded
with OVERRUN where that is occupied; one of an
unknown kind is answered UNKNOWN-KIND, one of a wrong length BAD-LENGTH; nothing else changes (R176, R177). Choices of the
model: log 16, log 17. -/
def Obligations.MessagesPlaced : Prop :=
  ∀ (s : State) (m : Message), m.body.length ≤ 240 →
    (s.held ≠ none ∨ 8 ≤ s.replies.length →
      (s.holdBuf = none → s.submit m = { s with holdBuf := some m }) ∧
      (s.holdBuf ≠ none → s.submit m = { s with overrun := true })) ∧
    (s.ready → kindOf m.kind = none → exec (.unknownKind m.kind m.tag m.screen m.body) s =
      .next (s.replied ⟨m.kind, m.tag, m.screen, .unknownKind, false, [], true⟩)) ∧
    ∀ k, s.ready → kindOf m.kind = some k → k.admits m.body.length = false →
      s.submit m = s.replied ⟨m.kind, m.tag, m.screen, .badLength, false, [], true⟩

/-- While STARTING, every request but the five that are served is answered STARTING; while a screen's show lock is set, the
requests that R84 lists for it are answered LOCKED. Neither has any other effect (R84, R86). -/
def Obligations.RequestsRefused : Prop :=
  ∀ (s : State) (m : Message) (k : RequestKind), kindOf m.kind = some k → k.admits m.body.length = true →
    (s.device = .starting → k.servedInStarting = false →
      s.takeMessage m = s.replied ⟨m.kind, m.tag, m.screen, .starting, false, [], true⟩) ∧
    ∀ i, s.device = .running → screenOf m.screen = some i → (s.screen i).showLock = true →
      (k ∈ [RequestKind.cueInsert, .cueDelete, .cueClear, .cueTagRange, .cueUntag, .cueDeleteTagged, .screenRestart] ∨
        (k = .presetSelect ∧ (byteAt m.body 0).toNat < 4) ∨
        (k = .formatOverride ∧ (overrideField (byteAt m.body 0)).isSome = true) ∨
        (k = .slotErase ∧ ∃ n, m.slotRef = some (.room i n)) ∨
        (k = .commit ∧ (∃ n, m.slotRef = some (.room i n)) ∧ s.commit.state = .idle ∧ s.storeNotices.length < 4)) →
      s.takeMessage m = s.replied ⟨m.kind, m.tag, m.screen, .locked, false, [], true⟩

/-- The reports, served in either device state: STATUS clears the lock-lost latch, METER-READ the peak holds and clip
counts, and nothing else changes (R9, R52, R93, R133, R179, R180, R181). The code of the lock-lost byte and of a room slot's
boot flag byte, and of a screen's program state in STATUS, is log 32, that a format slot's boot flag byte is 00h is log 31, and that the bits without a name of
STATUS's flags and of ALARM-READ's bytes are 0 is log 36. Choices of the model: log 16. -/
def Obligations.ReportsServed : Prop :=
  ∀ (s : State) (tag scr : Byte), s.ready →
    exec (.status tag scr) s = .next (State.replied { s with lockLost := false }
      ⟨0x01, tag, scr, .done, false, s.statusData, true⟩) ∧
    s.statusData.length = 57 ∧
    (∀ (a b : Byte) (id : SlotId), slotRefOf scr a b = some id → exec (.slotInfo tag scr a b) s = .next (s.replied
      ⟨0x02, tag, scr, .done, false, [(s.slot id).state.code, flagByte (s.slot id).boot] ++ (s.slot id).label, true⟩)) ∧
    (∀ i, screenOf scr = some i →
      exec (.meterRead tag scr) s = .next ((s.onScreen i fun x => x.mapFeeds fun _ y =>
        { y with meter := { y.meter with hold := 0, clips := 0 } }).replied
        ⟨0x17, tag, scr, .done, false, (s.screen i).meterData, true⟩) ∧ (s.screen i).meterData.length = 208) ∧
    (scr = 0 → exec (.alarmRead tag scr) s = .next (s.replied
      ⟨0x18, tag, scr, .done, false, [s.alarmByte .trunk, s.alarmByte .senselink], true⟩)) ∧
    ∀ i, screenOf scr = some i → exec (.alarmRead tag scr) s = .next (s.replied
      ⟨0x18, tag, scr, .done, false, (screenSources i ++ feedSources i).map s.alarmByte, true⟩) ∧
      (screenSources i ++ feedSources i).length = 52

/-! ## Requests of the table store -/

/-- The staging buffer's requests: STAGE-CLEAR zeroes it, STAGE-WRITE writes its data and leaves every other byte,
STAGE-READ returns its bytes and changes nothing (R64). Choices of the model: log 16. -/
def Obligations.StagingRequests : Prop :=
  ∀ (s : State) (tag scr : Byte), s.ready → s.device = .running →
    (s.commit.state = .idle → exec (.stageClear tag scr) s = .next (State.replied { s with staging := [] }
      ⟨0x03, tag, scr, .done, false, [], true⟩)) ∧
    (∀ (offset : Half) (data : List Byte), Memory.wf stagingDefault s.staging = true → s.commit.state = .idle →
      data.length ≤ 232 → offset.toNat < 4096 → offset.toNat + data.length ≤ 4096 →
      ∃ t : State, exec (.stageWrite tag scr offset data) s = .next t ∧
        (∀ j, j < data.length → Memory.read stagingDefault t.staging (offset.toNat + j) = data.getD j 0) ∧
        (∀ a, a < offset.toNat ∨ offset.toNat + data.length ≤ a →
          Memory.read stagingDefault t.staging a = Memory.read stagingDefault s.staging a) ∧
        t = State.replied { s with staging := t.staging } ⟨0x04, tag, scr, .done, false, [], true⟩) ∧
    ∀ offset n : Half, offset.toNat < 4096 → 1 ≤ n.toNat → n.toNat ≤ 232 → offset.toNat + n.toNat ≤ 4096 →
      exec (.stageRead tag scr offset n) s = .next (s.replied ⟨0x05, tag, scr, .done, false,
        (List.range n.toNat).map fun j => Memory.read stagingDefault s.staging (offset.toNat + j), true⟩)

/-- STAGE-FETCH of a VALID or INVALID slot holds execution with its reply's place taken; its copy waits for the port, or
takes it at once where it is free and nothing comes first (R65, R74, R176). Choices of the model: log 5, log 16. -/
def Obligations.StageFetchHolds : Prop :=
  ∀ (s : State) (tag scr a b : Byte) (offset : Half) (id : SlotId), s.ready → s.device = .running →
    slotRefOf scr a b = some id → offset.toNat < 4096 → offset.toNat + id.imageSize ≤ 4096 → s.commit.state = .idle →
    ((s.slot id).state = .valid ∨ (s.slot id).state = .invalid) →
    let t := { State.replied s ⟨0x06, tag, scr, .done, false, [], false⟩ with
      held := some ⟨0x06, tag, scr, [a, b] ++ toBytes 2 offset.toNat⟩
      engineWork := some (.fetch id offset.toNat) }
    (s.port ≠ none → exec (.stageFetch tag scr a b offset) s = .next t) ∧
    (s.port = none → s.scan = none → s.refreshes = [] → s.findScreen Screen.loadWaits = none →
      exec (.stageFetch tag scr a b offset) s = .next { t with port := some ⟨.engine, 0⟩ })

/-- COMMIT that passes its checks: the slot is WRITING, the record WAITING for the target with no page written, the reply
ACCEPTED, and nothing else changes; with the port free and nothing ahead of it the commit takes the port for page 0 and the
mark is OPEN (R63, R66, R68, R74). Choices of the model: log 16. -/
def Obligations.CommitAccepted : Prop :=
  ∀ (s : State) (tag scr a b : Byte) (id : SlotId), s.ready → s.device = .running → slotRefOf scr a b = some id →
    s.commit.state = .idle → s.storeNotices.length < 4 → s.slotLocked id = false → s.slotProtected id = false →
    imageOk id (s.stagedImage id) = true →
    (s.port ≠ none → exec (.commit tag scr a b) s = .next (State.replied
      { s.onSlot id (fun x => { x with state := .writing }) with
        commit := ⟨.waiting, id, (s.slot id).state, 0, 0, false, s.commit.last⟩ }
      ⟨0x07, tag, scr, .accepted, false, [], true⟩)) ∧
    (s.port = none → s.scan = none → s.findScreen Screen.loadWaits = none → s.refreshes = [] → s.engineWork = none →
      exec (.commit tag scr a b) s = .next (State.replied
        { s.onSlot id (fun x => { x with state := .writing, mark := .opened }) with
          commit := ⟨.writing, id, (s.slot id).state, 0, 0, false, s.commit.last⟩
          port := some ⟨.commitWrite, 0⟩ }
        ⟨0x07, tag, scr, .accepted, false, [], true⟩))

/-- COMMIT-ABANDON: a WAITING commit ends at once, the slot as it was before where nothing is written and INVALID with its
copies cleared otherwise, a format's cache entry then absent; a unit in progress is let end first; with no commit in flight
the request is refused (R26, R62, R69, R70, R71). Choices of the model: log 16. -/
def Obligations.CommitAbandoned : Prop :=
  ∀ (s : State) (tag scr : Byte), s.ready → s.device = .running →
    (s.commit.state = .idle → exec (.commitAbandon tag scr) s = .next (s.replied
      ⟨0x08, tag, scr, .refusedState, false, [], true⟩)) ∧
    (s.commit.state = .waiting → s.commit.written = 0 → exec (.commitAbandon tag scr) s = .next (State.replied
      { s.onSlot s.commit.target (fun x => { x with state := s.commit.previous }) with
        commit := { s.commit with state := .idle, abandon := false, last := .abandoned }
        commitEnded := true
        storeNotices := s.storeNotices ++ [⟨s.commit.target, .abandoned⟩] }
      ⟨0x08, tag, scr, .done, false, [], true⟩)) ∧
    (s.commit.state = .waiting → s.commit.written ≠ 0 →
      ∃ t : State, exec (.commitAbandon tag scr) s = .next (t.replied ⟨0x08, tag, scr, .done, false, [], true⟩) ∧
        (t.slot s.commit.target).state = .invalid ∧ (t.slot s.commit.target).boot = false ∧
        (∀ b ∈ (t.slot s.commit.target).label, b = 0) ∧ (t.slot s.commit.target).mark = (s.slot s.commit.target).mark ∧
        (∀ j, j ≠ s.commit.target → t.slot j = s.slot j) ∧
        (∀ q : Fin 16, t.cache[q] =
          match s.commit.target with
          | .format f => if q = f.succ then none else s.cache[q]
          | .room _ _ => s.cache[q]) ∧
        (∀ i n, s.commit.target = .room i n → t.screens = s.screens) ∧
        t = { s with
          slots := t.slots, cache := t.cache, screens := t.screens
          commit := { s.commit with state := .idle, abandon := false, last := .abandoned }
          commitEnded := true
          storeNotices := s.storeNotices ++ [⟨s.commit.target, .abandoned⟩] }) ∧
    (s.commit.state = .writing ∨ s.commit.state = .verifying → exec (.commitAbandon tag scr) s = .next (State.replied
      { s with commit := { s.commit with abandon := true } } ⟨0x08, tag, scr, .done, false, [], true⟩))

/-- SLOT-ERASE: an EMPTY slot is answered DONE at once; a slot VALID or INVALID becomes EMPTY with its copies cleared and
its erase work waits with execution HELD; a format's cache entry is absent and its refresh withdrawn, one that is being
read marked to be discarded; with the port free and nothing ahead of it the erase takes it and the mark is OPEN (R26, R62,
R63, R72, R73, R74). Choices of the model: log 16. -/
def Obligations.SlotErased : Prop :=
  ∀ (s : State) (tag scr a b : Byte) (id : SlotId), s.ready → s.device = .running → slotRefOf scr a b = some id →
    s.slotLocked id = false → s.slotProtected id = false → s.slotLive id = false →
    ((s.slot id).state = .empty → exec (.slotErase tag scr a b) s = .next (s.replied
      ⟨0x09, tag, scr, .done, false, [], true⟩)) ∧
    (((s.slot id).state = .valid ∨ (s.slot id).state = .invalid) →
      (∀ i n, id = .room i n →
        let t := { State.replied
            (s.onSlot id fun x => { x with state := .empty, boot := false, label := List.replicate 32 0 })
            ⟨0x09, tag, scr, .done, false, [], false⟩ with
          held := some ⟨0x09, tag, scr, [a, b]⟩
          engineWork := some (.erase id 0) }
        (s.port ≠ none → exec (.slotErase tag scr a b) s = .next t) ∧
        (s.port = none → s.scan = none → s.findScreen Screen.loadWaits = none → s.refreshes = [] →
          exec (.slotErase tag scr a b) s = .next
            { t.onSlot id (fun x => { x with mark := .opened }) with port := some ⟨.engine, 0⟩ })) ∧
      ∀ f, id = .format f → s.port ≠ none →
        ∃ t : State, exec (.slotErase tag scr a b) s = .next t ∧
          (∀ q : Fin 16, t.cache[q] = if q = f.succ then none else s.cache[q]) ∧
          (∀ i k, t.feed i k = { s.feed i k with
            row := effectiveRow (t.formatFor (s.screen i).effectiveCode) (s.screen i).out k
            fold := foldStateOf (t.formatFor (s.screen i).effectiveCode) (s.screen i).out k }) ∧
          (∀ i, t.screen i = { s.screen i with feeds := (t.screen i).feeds }) ∧
          t = { State.replied
              (s.onSlot id fun x => { x with state := .empty, boot := false, label := List.replicate 16 0 })
              ⟨0x09, tag, scr, .done, false, [], false⟩ with
            cache := t.cache
            screens := t.screens
            refreshes := s.refreshes.filter fun g => decide (g ≠ f)
            dropRefresh := s.dropRefresh || decide (s.port.map PortUnit.work = some (.refresh f))
            held := some ⟨0x09, tag, scr, [a, b]⟩
            engineWork := some (.erase id 0) })

/-! ## Requests of presets, formats and gains -/

/-- PRESET-SELECT of a VALID slot: with no operation running, a load waits for the port, or takes it at once where it is
free and no other comes first; with one running, the selection becomes the pending one (R74, R78, R79, R80). Choices of
the model: log 16. -/
def Obligations.PresetSelected : Prop :=
  ∀ (s : State) (tag scr b : Byte) (i : Fin 12) (n : Fin 4), s.ready → s.device = .running → screenOf scr = some i →
    b.toNat = n.val → (s.screen i).showLock = false → (s.slot (.room i n)).state = .valid →
    ((s.screen i).running = none → s.port ≠ none → exec (.presetSelect tag scr b) s = .next ((s.setScreen i
      { s.screen i with running := some ⟨.slot n, .loadWait⟩ }).replied ⟨0x0A, tag, scr, .done, false, [], true⟩)) ∧
    ((s.screen i).running = none → s.port = none → s.scan = none → s.findScreen Screen.loadWaits = none →
      exec (.presetSelect tag scr b) s = .next (State.replied
        { s.setScreen i { s.screen i with running := some ⟨.slot n, .loading⟩ } with port := some ⟨.load i, 0⟩ }
        ⟨0x0A, tag, scr, .done, false, [], true⟩)) ∧
    ((s.screen i).running ≠ none → exec (.presetSelect tag scr b) s = .next ((s.setScreen i
      { s.screen i with waiting := some (.slot n) }).replied ⟨0x0A, tag, scr, .done, false, [], true⟩))

/-- FORMAT-OVERRIDE sets a cached format or releases: the screen's effective matrix and fold states are those of its new
effective format, in force from the block in progress on; no other screen and nothing else changes (R27, R29, R37). Choices
of the model: log 4, log 16, log 21, log 33. -/
def Obligations.FormatOverridden : Prop :=
  ∀ (s : State) (tag scr b : Byte) (i : Fin 12) (v : Option (Fin 16)), s.ready → s.device = .running →
    screenOf scr = some i → overrideField b = some v → (s.screen i).showLock = false →
    (∀ c, v = some c → (s.cache[c]).isSome = true) →
    ∃ t : State, exec (.formatOverride tag scr b) s = .next (t.replied ⟨0x0B, tag, scr, .done, false, [], true⟩) ∧
      t = s.setScreen i { s.screen i with
        override := v, handed := { (s.screen i).handed with override := v }, feeds := (t.screen i).feeds } ∧
      ∀ k, t.feed i k = { s.feed i k with
        row := effectiveRow (s.formatFor (v.getD (s.screen i).tracker.code)) (s.screen i).out k
        fold := foldStateOf (s.formatFor (v.getD (s.screen i).tracker.code)) (s.screen i).out k }

/-- SCREEN-MUTE sets the mute flag and loads the mute ramp with a count of 12 where the target changes; MASTER-SET loads
the master ramp from its current value, a duration of 0 being taken as 1. Nothing else changes (R54, R55, R56, R57, R58,
R59). Choices of the model: log 16. -/
def Obligations.GainRequests : Prop :=
  ∀ (s : State) (tag scr : Byte) (i : Fin 12), s.ready → s.device = .running → screenOf scr = some i →
    (∀ v : Bool, exec (.screenMute tag scr (if v then 1 else 0)) s = .next ((s.setScreen i { s.screen i with
      muted := v
      mute := if (if v = true ∨ (s.screen i).phase = .fadingOut then 0 else 32768) = (s.screen i).mute.target
        then (s.screen i).mute
        else ⟨(s.screen i).mute.current, (s.screen i).mute.current,
          if v = true ∨ (s.screen i).phase = .fadingOut then 0 else 32768, 12⟩ }).replied
      ⟨0x0C, tag, scr, .done, false, [], true⟩)) ∧
    ∀ target d : Half, exec (.masterSet tag scr target d) s = .next ((s.setScreen i { s.screen i with
      master := ⟨(s.screen i).master.current, (s.screen i).master.current, target.toNat,
        if d.toNat = 0 then 1 else d.toNat⟩ }).replied ⟨0x0D, tag, scr, .done, false, [], true⟩)

/-! ## Requests of the cue lists -/

/-- CUE-INSERT of a sound record with a new id and room for it: the tags are cleared, the cue stands after every cue at or
before its position with the counter's value as its insertion number, the counter rises by one, and the reply carries
index and number; the pointer rises by one where the engine is TRACKING and the cue is at or before its last processed
position, and is kept otherwise; no other screen and nothing else changes (R138, R139, R140, R141). Choices of the model:
log 16. -/
def Obligations.CueInserted : Prop :=
  ∀ (s : State) (tag scr : Byte) (i : Fin 12) (id : Half) (frame : Frame) (block flags action : Byte) (pa pb : Half)
    (c : Cue), s.ready → s.device = .running → screenOf scr = some i → (s.screen i).showLock = false →
    cueOf (toBytes 2 id.toNat ++ toBytes 3 frame.toNat ++ [block, flags, action] ++ toBytes 2 pa.toNat ++
      toBytes 2 pb.toNat) = some c →
    (∀ d ∈ (s.screen i).cues, d.id ≠ c.id) → s.freeCues ≠ 0 → (s.screen i).cues.length < 256 →
    (s.screen i).counter < 4294967295 →
    let old := (s.screen i).cues.map fun d => { d with tagged := false }
    let n := (old.takeWhile fun d => d.pos.upTo c.pos).length
    ∃ t : State, exec (.cueInsert tag scr id frame block flags action pa pb) s = .next (t.replied
        ⟨0x0E, tag, scr, .done, (s.screen i).anyTagged, toBytes 2 n ++ toBytes 4 (s.screen i).counter, true⟩) ∧
      ((s.screen i).tracking = true → ∀ q, (s.screen i).enginePos = some q →
        (t.screen i).pointer = (s.screen i).pointer + if c.pos.upTo q then 1 else 0) ∧
      ((s.screen i).tracking = false → (t.screen i).pointer = (s.screen i).pointer) ∧
      t = s.setScreen i { s.screen i with
        cues := old.take n ++ { c with number := (s.screen i).counter, tagged := false } :: old.drop n
        counter := (s.screen i).counter + 1
        pointer := (t.screen i).pointer }

/-- CUE-DELETE removes the cue with the id and reports its index, CUE-DELETE-TAGGED every tagged cue, CUE-CLEAR every cue
with pointer and counter 0; the cues that stay keep their order; while the engine is TRACKING the pointer falls by the
number of removed cues below it, and while it is IDLE the deletions leave it; no other screen and nothing else changes
(R138, R139, R140, R142, R143, R147). Choices of the model: log 16, log 30. -/
def Obligations.CueDeletions : Prop :=
  ∀ (s : State) (tag scr : Byte) (i : Fin 12), s.ready → s.device = .running → screenOf scr = some i →
    (s.screen i).showLock = false →
    (∀ (id : Half) (n : Nat), (s.screen i).cueIndex id.toNat = some n →
      ∃ t : State, exec (.cueDelete tag scr id) s = .next (t.replied
          ⟨0x0F, tag, scr, .done, (s.screen i).anyTagged, toBytes 2 n, true⟩) ∧
        ((s.screen i).tracking = true → ((s.screen i).cues.map Cue.id).Nodup →
          (t.screen i).pointer = (s.screen i).pointer - if n < (s.screen i).pointer then 1 else 0) ∧
        ((s.screen i).tracking = false → (t.screen i).pointer = (s.screen i).pointer) ∧
        t = s.setScreen i { s.screen i with
          cues := ((s.screen i).cues.map fun d => { d with tagged := false }).filter fun d => decide (d.id ≠ id.toNat)
          pointer := (t.screen i).pointer }) ∧
    exec (.cueClear tag scr) s = .next ((s.setScreen i { s.screen i with cues := [], pointer := 0, counter := 0 }).replied
      ⟨0x10, tag, scr, .done, (s.screen i).anyTagged, toBytes 2 (s.screen i).cues.length, true⟩) ∧
    exec (.cueDeleteTagged tag scr) s = .next ((s.setScreen i { s.screen i with
        cues := (s.screen i).cues.filter fun d => !d.tagged
        pointer := if (s.screen i).tracking
          then (s.screen i).pointer - (((s.screen i).cues.take (s.screen i).pointer).filter Cue.tagged).length
          else (s.screen i).pointer }).replied
      ⟨0x13, tag, scr, .done, false, toBytes 2 (s.screen i).taggedCount, true⟩)

/-- CUE-TAG-RANGE tags every cue from one position to the other and keeps the other tags, and refuses a range in the wrong
order or a block index above 49; CUE-UNTAG clears one cue's tag, and refuses an id the list does not hold; CUE-LIST-READ
changes nothing and carries at most 14 records of 16 bytes (R140, R145, R146, R148). That bits 6..1 of a record's byte 6
are 0 is log 36. Choices of the model: log 16. -/
def Obligations.CueTagsAndReads : Prop :=
  ∀ (s : State) (tag scr : Byte) (i : Fin 12), s.ready → s.device = .running → screenOf scr = some i →
    (∀ start : Byte, exec (.cueListRead tag scr start) s = .next (s.replied
        ⟨0x14, tag, scr, .done, false, s.cueListData i start.toNat, true⟩) ∧
      (s.cueListData i start.toNat).length = 8 + 16 * min 14 ((s.screen i).cues.length - start.toNat)) ∧
    ((s.screen i).showLock = false →
      (∀ (f1 f2 : Frame) (b1 b2 : Byte), (⟨f1.toNat, b1.toNat⟩ : Position).upTo ⟨f2.toNat, b2.toNat⟩ = true →
        b1.toNat ≤ 49 → b2.toNat ≤ 49 →
        let x : Screen := { s.screen i with
          cues := (s.screen i).cues.map fun c => { c with tagged := c.tagged ||
            (!c.pos.before ⟨f1.toNat, b1.toNat⟩ && !(⟨f2.toNat, b2.toNat⟩ : Position).before c.pos) } }
        exec (.cueTagRange tag scr f1 b1 f2 b2) s = .next ((s.setScreen i x).replied
          ⟨0x11, tag, scr, .done, false,
            toBytes 2 (x.taggedCount - (s.screen i).taggedCount) ++ toBytes 2 x.taggedCount, true⟩)) ∧
      (∀ (f1 f2 : Frame) (b1 b2 : Byte), ((⟨f1.toNat, b1.toNat⟩ : Position).upTo ⟨f2.toNat, b2.toNat⟩ = false ∨
        49 < b1.toNat ∨ 49 < b2.toNat) → exec (.cueTagRange tag scr f1 b1 f2 b2) s = .next (s.replied
          ⟨0x11, tag, scr, .refusedRange, false, [], true⟩)) ∧
      (∀ id : Half, (s.screen i).cueIndex id.toNat = none → exec (.cueUntag tag scr id) s = .next (s.replied
        ⟨0x12, tag, scr, .refusedUnknown, false, [], true⟩)) ∧
      ∀ (id : Half) (n : Nat), (s.screen i).cueIndex id.toNat = some n →
        let x : Screen := { s.screen i with
          cues := (s.screen i).cues.map fun c => if c.id = id.toNat then { c with tagged := false } else c }
        exec (.cueUntag tag scr id) s = .next ((s.setScreen i x).replied
          ⟨0x12, tag, scr, .done, false, toBytes 2 x.taggedCount, true⟩))

/-! ## Cue execution -/

/-- A position event that follows on fires the cues from the pointer on up to its new position, in list order; any other
chases and then fires the cues at its landing. It leaves the engine TRACKING at its position with the pointer at the first
cue after it, and no cue list changed (R150, R151, R155, R156). A chase selects, of the STATE cues before the landing, for
each chase key the last in list order, and no other cue (R152); a chased FADE loads what remains of it, any other cue acts
as if fired (R153, R154). Each action acts as its rule says, and one that cannot be carried out changes none of the state
it names and raises the screen's CUE source (R104, R157 to R161). -/
def Obligations.EngineFollows : Prop :=
  (∀ (s : State) (i : Fin 12) (e : PositionEvent),
    ((s.takePosition i e).screen i).tracking = true ∧ ((s.takePosition i e).screen i).enginePos = some e.pos ∧
      ((s.takePosition i e).screen i).pointer =
        ((s.screen i).cues.takeWhile fun c => c.pos.upTo e.pos).length ∧
      (∀ j, ((s.takePosition i e).screen j).cues = (s.screen j).cues ∧
        ((s.takePosition i e).screen j).counter = (s.screen j).counter) ∧
      let fire (t : State) (l : List Cue) : State := l.foldl (fun v c => v.fireCue i e.pos c) t
      let chase (t : State) (l : List Cue) : State := l.foldl (fun v c => v.chaseCue i e.pos (blocksPerFrame e.rate) c) t
      let arrived (t : State) : State := t.setScreen i { t.screen i with
        tracking := true, enginePos := some e.pos
        pointer := ((s.screen i).cues.takeWhile fun c => c.pos.upTo e.pos).length }
      ((s.screen i).continuous e = true ↔ (s.screen i).tracking = true ∧ e.rateChanged = false ∧
        ∃ p, e.previous = some p ∧ e.pos = p.after (1 + e.dropouts) (blocksPerFrame e.rate)) ∧
      ((s.screen i).continuous e = true → s.takePosition i e =
        arrived (fire s (((s.screen i).cues.drop (s.screen i).pointer).takeWhile fun c => c.pos.upTo e.pos))) ∧
      ((s.screen i).continuous e = false → s.takePosition i e =
        arrived (fire (chase s (chased (s.screen i).cues e.pos))
          ((s.screen i).cues.filter fun c => decide (c.pos = e.pos))))) ∧
  (∀ (l : List Cue) (landing : Position),
    (chased l landing).Sublist l ∧
      (∀ c ∈ chased l landing, c.isState = true ∧ c.pos.before landing = true) ∧
      (chased l landing).Pairwise (fun a b => a.action.key ≠ b.action.key) ∧
      ∀ l1 c l2, l = l1 ++ c :: l2 → c.isState = true → c.pos.before landing = true →
        (∀ d ∈ l2, d.isState = true → d.pos.before landing = true → d.action.key ≠ c.action.key) →
        c ∈ chased l landing) ∧
  ∀ (s : State) (i : Fin 12) (p : Position) (c : Cue),
    let t := s.fireCue i p c
    (∀ target d b, c.action = .fade target d → s.chaseCue i p b c = s.setScreen i { s.screen i with
      master := ⟨(s.screen i).master.current, (s.screen i).master.current, target, max 1
        ((if c.pos.block < b then c.pos.frame * b + c.pos.block else (c.pos.frame + 1) * b) + d -
          (p.frame * b + p.block))⟩ }) ∧
    (∀ b, (∀ target d, c.action ≠ .fade target d) → s.chaseCue i p b c = t) ∧
    (∀ n on, c.action = .lineSet n on → (s.line n).owner = some i → (s.line n).source = .cue →
      t = s.setLine n ({ s.line n with cueLevel := on, pulse := 0 }.follow on)) ∧
    (∀ n d, c.action = .linePulse n d → (s.line n).owner = some i → (s.line n).source = .cue →
      t = s.setLine n ({ s.line n with cueLevel := true, pulse := d }.follow true)) ∧
    (∀ target d, c.action = .fade target d → t = s.setScreen i { s.screen i with
      master := ⟨(s.screen i).master.current, (s.screen i).master.current, target, if d = 0 then 1 else d⟩ }) ∧
    (∀ v, c.action = (if v then .mute else .unmute) → (t.screen i).muted = v ∧
      (t.screen i).mute.target = (if s.device = .starting ∨ v = true ∨ (s.screen i).phase = .fadingOut then 0 else 32768) ∧
      (t.screen i).mute.current = (s.screen i).mute.current ∧
      t = s.setScreen i { s.screen i with muted := v, mute := (t.screen i).mute }) ∧
    (∀ n, c.action = .preset n → (s.slot (.room i n)).state = .valid →
      ((s.screen i).running ≠ none → t = s.setScreen i { s.screen i with waiting := some (.slot n) }) ∧
      ((s.screen i).running = none → s.port ≠ none →
        t = s.setScreen i { s.screen i with running := some ⟨.slot n, .loadWait⟩ })) ∧
    (∀ v, c.action = .format v → (∀ f, v = some f → (s.cache[f]).isSome = true) →
      (t.screen i).override = v ∧ (t.screen i).handed = (s.screen i).handed ∧
      t = s.setScreen i { s.screen i with override := v, feeds := (t.screen i).feeds }) ∧
    (∀ code, c.action = .mark code → s.marks.length < 16 →
      t = { s with marks := s.marks ++ [⟨i, c.id, code, c.pos, p⟩] }) ∧
    ((∃ n on, c.action = .lineSet n on ∧ ¬((s.line n).owner = some i ∧ (s.line n).source = .cue)) ∨
        (∃ n d, c.action = .linePulse n d ∧ ¬((s.line n).owner = some i ∧ (s.line n).source = .cue)) ∨
        (∃ n, c.action = .preset n ∧ (s.slot (.room i n)).state ≠ .valid) ∨
        (∃ f, c.action = .format (some f) ∧ (s.cache[f]).isSome = false) ∨
        (∃ code, c.action = .mark code ∧ 16 ≤ s.marks.length) →
      ((s.screen i).cue.state = .active → t = s) ∧
      ((s.screen i).cue.state ≠ .active → (t.screen i).cue.state = .active ∧ (t.screen i).cue.count = 0 ∧
        (t.screen i).cue.latched = true ∧ s.reported t (.cue i) true s.outSeq ∧
        t = { s.setScreen i { s.screen i with cue := (t.screen i).cue } with alarms := t.alarms }))

/-! ## Requests of alarms, protection and restart -/

/-- ALARM-ACKNOWLEDGE clears the latched flags of the sources of its scope that are CLEAR or ONSET and leaves the others',
but for CUE, which goes to CLEAR with its flag cleared; sources outside the scope are left (R104, R108). Choices of the
model: log 16. -/
def Obligations.AlarmAcknowledged : Prop :=
  ∀ (s : State) (tag scr : Byte), s.ready → s.device = .running →
    (scr = 0 → ∃ t : State, exec (.alarmAcknowledge tag scr) s = .next (t.replied ⟨0x19, tag, scr, .done, false, [], true⟩) ∧
      t = { s with trunk := t.trunk, senselink := t.senselink } ∧
      t.trunk = (if s.trunk.isUp then s.trunk else { s.trunk with latched := false }) ∧
      t.senselink = if s.senselink.isUp then s.senselink else { s.senselink with latched := false }) ∧
    ∀ i, screenOf scr = some i →
      ∃ t : State, exec (.alarmAcknowledge tag scr) s = .next (t.replied ⟨0x19, tag, scr, .done, false, [], true⟩) ∧
        t = { s with screens := t.screens, alarms := t.alarms } ∧
        ((t.source (.cue i)).isUp = false ∧ (t.source (.cue i)).latched = false) ∧
        (∀ id ∈ screenSources i ++ feedSources i, id ≠ .cue i →
          t.source id = if (s.source id).isUp then s.source id else { s.source id with latched := false }) ∧
        ∀ id, id ∉ screenSources i ++ feedSources i → t.source id = s.source id

/-- FEED-RESTORE takes a folded feed out of the fold set, rebuilds the screen's matrix and clears its MISMATCH source with
its latched flag kept; PROTECT-RESET zeroes the screen's sixteen protect records. No other screen changes (R33, R37, R114,
R118). Choices of the model: log 16. -/
def Obligations.RestoreAndReset : Prop :=
  ∀ (s : State) (tag scr : Byte) (i : Fin 12), s.ready → s.device = .running → screenOf scr = some i →
    (∀ (b : Byte) (k : Fin 16), b.toNat = k.val → (s.feed i k).folded = true →
      ∃ t : State, exec (.feedRestore tag scr b) s = .next (t.replied ⟨0x1A, tag, scr, .done, false, [], true⟩) ∧
        (t.feed i k).folded = false ∧ (∀ q, q ≠ k → (t.feed i q).folded = (s.feed i q).folded) ∧
        (∀ q, (t.feed i q).row =
          effectiveRow (s.formatFor (s.screen i).effectiveCode) (t.screen i).out q) ∧
        (t.feed i k).mismatch.state = .clear ∧ (t.feed i k).mismatch.latched = (s.feed i k).mismatch.latched ∧
        (∀ j, j ≠ i → t.screen j = s.screen j) ∧ t = { s with screens := t.screens, alarms := t.alarms }) ∧
    exec (.protectReset tag scr) s = .next ((s.onScreen i fun x => x.mapFeeds fun _ y =>
      { y with protect := ⟨0, 0, 0⟩ }).replied ⟨0x1B, tag, scr, .done, false, [], true⟩)

/-- SCREEN-RESTART of a screen not locked: empty list, counter and pointer 0, engine IDLE with no position, unity loaded
with a count of 1, mute flag and override clear, protect records and fold set zeroed, all 52 sources CLEAR and unlatched;
the boot choice is placed as the running operation where none runs, and else as the pending one in place of the one held;
the screen's CUE lines are set OFF and no other line moves; the tracker record, the staging buffer and the array are left,
and behind other store work every other screen too (R79, R83, R121, R162, R163, R169). The SAFE set's coefficients
and sense floor are log 34. Choices of the model: log 16. -/
def Obligations.ScreenRestarted : Prop :=
  ∀ (s : State) (tag scr : Byte) (i : Fin 12), s.ready → s.device = .running → screenOf scr = some i →
    (s.screen i).showLock = false →
    ∃ t : State, exec (.screenRestart tag scr) s = .next (t.replied ⟨0x1E, tag, scr, .done, false, [], true⟩) ∧
      (t.screen i).cues = [] ∧ (t.screen i).counter = 0 ∧ (t.screen i).pointer = 0 ∧
      (t.screen i).tracking = false ∧ (t.screen i).enginePos = none ∧ (t.screen i).override = none ∧
      (t.screen i).muted = false ∧
      (t.screen i).master = ⟨(s.screen i).master.current, (s.screen i).master.current, 32768, 1⟩ ∧
      (∀ k, (t.feed i k).protect = ⟨0, 0, 0⟩ ∧ (t.feed i k).folded = false) ∧
      (∀ id ∈ screenSources i ++ feedSources i,
        (t.source id).state = .clear ∧ (t.source id).count = 0 ∧ (t.source id).latched = false) ∧
      (t.screen i).tracker = (s.screen i).tracker ∧
      (let ready (n : Fin 4) := (s.slot (.room i n)).state = .valid ∧ (s.slot (.room i n)).boot = true
        let boot := s.bootChoice i
        (∀ n, ready n → (∀ m, m < n → ¬ ready m) → boot = .slot n) ∧
        ((∀ n, ¬ ready n) → boot = if (s.slot (.room i 0)).state = .valid then .slot 0 else .safe) ∧
        ((s.screen i).running ≠ none → (t.screen i).running = (s.screen i).running ∧
          (t.screen i).waiting = some boot ∧ (t.screen i).phase = (s.screen i).phase ∧
          (t.screen i).loadBuf = (s.screen i).loadBuf) ∧
        ((s.screen i).running = none → (t.screen i).waiting = none ∧
          (boot = .safe → (t.screen i).running = some ⟨.safe, .fadingOut⟩ ∧
            (t.screen i).loadBuf = some ⟨RoomSet.safe, .safe⟩ ∧ (t.screen i).phase = .fadingOut ∧
            (t.screen i).mute.target = 0) ∧
          ∀ n, boot = .slot n →
            (s.port ≠ none → t.port = s.port ∧ (t.screen i).running = some ⟨.slot n, .loadWait⟩) ∧
            (s.port = none → s.scan = none → s.findScreen Screen.loadWaits = none →
              t.port = some ⟨.load i, 0⟩ ∧ (t.screen i).running = some ⟨.slot n, .loading⟩))) ∧
      (∀ n, t.line n = if (s.line n).owner = some i ∧ (s.line n).source = .cue
        then { s.line n with cueLevel := false, pulse := 0 }.follow false else s.line n) ∧
      t = { s with
        screens := t.screens, slots := t.slots, port := t.port, refreshes := t.refreshes, commit := t.commit
        lines := t.lines, alarms := t.alarms } ∧ (s.port ≠ none → ∀ j, j ≠ i → t.screen j = s.screen j)
end

