-- ==== Sys2Proof/Laws/Bytes.lean ====
section
/-! SUPPORT. What is read back from a number laid out in bytes (R183), and that a CRC-16 agrees with the bytes that carry
it (R184), and the bytes read back from their bits. -/

namespace Sys2Proof.Machine

@[simp] theorem length_toBytes (k n : Nat) : (toBytes k n).length = k := by
  induction k with
  | zero => rfl
  | succ k ih => simp [toBytes, ih]

theorem foldl_toBytes (k n acc : Nat) :
    (toBytes k n).foldl (fun (x : Nat) (b : Byte) => x * 256 + b.toNat) acc = acc * 256 ^ k + n % 256 ^ k := by
  induction k generalizing acc with
  | zero => simp [toBytes, Nat.mod_one]
  | succ k ih =>
    simp only [toBytes, List.foldl_cons, ih, BitVec.toNat_ofNat]
    have h1 : n % 256 ^ (k + 1) = n % 256 ^ k + 256 ^ k * (n / 256 ^ k % 256) := by
      rw [pow_succ, Nat.mod_mul]
    rw [h1, show (2 : Nat) ^ 8 = 256 from rfl, pow_succ]
    ring

/-- The field in the k bytes of a number is the number, as far as k bytes hold it. -/
theorem fieldAt_toBytes (k n : Nat) (rest : List Byte) (h : n < 256 ^ k) : fieldAt (toBytes k n ++ rest) 0 k = n := by
  unfold fieldAt
  rw [List.drop_zero, List.take_left' (length_toBytes k n), foldl_toBytes, Nat.zero_mul, Nat.zero_add,
    Nat.mod_eq_of_lt h]

/-- A field behind other bytes is the field of what follows them. -/
theorem fieldAt_append (a rest : List Byte) (p k : Nat) : fieldAt (a ++ rest) (a.length + p) k = fieldAt rest p k := by
  unfold fieldAt
  rw [List.drop_append, List.drop_eq_nil_of_le (Nat.le_add_right _ _), List.nil_append, Nat.add_sub_cancel_left]

theorem fieldAt_toBytes_append (a rest : List Byte) (p k n : Nat) (hp : a.length = p) (h : n < 256 ^ k) :
    fieldAt (a ++ (toBytes k n ++ rest)) p k = n := by
  have := fieldAt_append a (toBytes k n ++ rest) 0 k
  rw [Nat.add_zero, hp] at this
  rw [this, fieldAt_toBytes k n rest h]

/-- A one-byte field is the byte. -/
theorem fieldAt_one (l : List Byte) (n : Nat) : fieldAt l n 1 = (byteAt l n).toNat := by
  unfold fieldAt byteAt
  rw [List.getD_eq_getElem?_getD, List.take_one, List.head?_drop]
  cases l[n]? <;> simp

@[simp] theorem length_crcBytes (l : List Byte) : (crcBytes l).length = 2 := length_toBytes 2 _

/-- The two bytes of a CRC, at the end of what they check, read back as the CRC. -/
theorem fieldAt_crcBytes (l m : List Byte) : fieldAt (l ++ crcBytes m) l.length 2 = (crc16 m).toNat := by
  have h : (crc16 m).toNat < 256 ^ 2 := by simpa using (crc16 m).isLt
  have := fieldAt_toBytes_append l [] l.length 2 (crc16 m).toNat rfl h
  rwa [List.append_nil] at this

/-! ## Bits -/

theorem bitsByte_byteBits : ∀ b : Byte, bitsByte (byteBits b) = b := by decide +kernel

theorem length_byteBits (b : Byte) : (byteBits b).length = 8 := by simp [byteBits]

/-- The bytes of a bit stream that begins with the bits of some bytes. -/
theorem bytesOf_bitsOf (l : List Byte) (rest : List Bool) : bytesOf l.length (bitsOf l ++ rest) = l := by
  induction l with
  | nil => rfl
  | cons b l ih =>
    have h : bitsOf (b :: l) ++ rest = byteBits b ++ (bitsOf l ++ rest) := by simp [bitsOf]
    rw [h, List.length_cons, bytesOf, if_neg (by rw [List.length_append, length_byteBits]; omega),
      List.take_left' (length_byteBits b), List.drop_left' (length_byteBits b), bitsByte_byteBits, ih]

theorem length_bitsOf (l : List Byte) : (bitsOf l).length = 8 * l.length := by
  induction l with
  | nil => rfl
  | cons b l ih => rw [show bitsOf (b :: l) = byteBits b ++ bitsOf l from rfl, List.length_append, length_byteBits, ih, List.length_cons]; omega

/-- A search finds at once what begins the bits searched. -/
theorem searchBits_front {α : Type} (sync rest : List Byte) (read : List Bool → Option α) (x : α)
    (hr : read (bitsOf (sync ++ rest)) = some x) (hs : sync ≠ []) :
    searchBits sync read (bitsOf (sync ++ rest)) = some x := by
  have h : bytesOf sync.length (bitsOf (sync ++ rest)) = sync := by
    rw [show bitsOf (sync ++ rest) = bitsOf sync ++ bitsOf rest from List.flatMap_append, bytesOf_bitsOf]
  revert hr h
  cases hb : bitsOf (sync ++ rest) with
  | nil =>
    have hn := congrArg List.length hb
    rw [length_bitsOf, List.length_append, List.length_nil] at hn
    have := List.length_pos_iff.mpr hs
    omega
  | cons b l => intro hr h; unfold searchBits; rw [if_pos h, hr]

end Sys2Proof.Machine
end

