-- ==== Sys2Proof/Laws/State.lean ====
section
/-! SUPPORT. One lemma per field per update of the state and of a screen, and what is read back after an update. -/

namespace Sys2Proof.Machine

variable (s : State) (i j : Fin 12) (k q : Fin 16) (n m : Fin 24) (x : Screen) (f : Screen → Screen)
  (g : Feed → Feed) (l : Line) (id : SlotId) (w : Slot → Slot)

/-! ## What is read back -/

theorem State.screen_setScreen : (s.setScreen i x).screen j = if j = i then x else s.screen j := by
  unfold State.screen State.setScreen
  by_cases h : j = i
  · subst h; simp
  · have : i.val ≠ j.val := fun e => h (Fin.ext e.symm)
    simp [h, this]

@[simp] theorem State.screen_setScreen_same : (s.setScreen i x).screen i = x := by simp [State.screen_setScreen]

theorem State.screen_setScreen_other (h : j ≠ i) : (s.setScreen i x).screen j = s.screen j := by
  simp [State.screen_setScreen, h]

@[simp] theorem State.screen_onScreen_same : (s.onScreen i f).screen i = f (s.screen i) := by simp [State.onScreen]

theorem State.screen_onScreen_other (h : j ≠ i) : (s.onScreen i f).screen j = s.screen j := by
  simp [State.onScreen, State.screen_setScreen, h]

theorem Screen.feed_setFeed (y : Feed) : (x.setFeed k y).feed q = if q = k then y else x.feed q := by
  unfold Screen.feed Screen.setFeed
  by_cases h : q = k
  · subst h; simp
  · have : k.val ≠ q.val := fun e => h (Fin.ext e.symm)
    simp [h, this]

@[simp] theorem Screen.feed_setFeed_same (y : Feed) : (x.setFeed k y).feed k = y := by simp [Screen.feed_setFeed]

@[simp] theorem Screen.feed_mapFeeds (h : Fin 16 → Feed → Feed) : (x.mapFeeds h).feed q = h q (x.feed q) := by
  simp [Screen.mapFeeds, Screen.feed]

@[simp] theorem State.feed_onFeed_same : (s.onFeed i k g).feed i k = g (s.feed i k) := by
  simp [State.onFeed, State.feed]

theorem State.feed_onFeed_other (h : ¬(j = i ∧ q = k)) : (s.onFeed i k g).feed j q = s.feed j q := by
  simp only [State.onFeed, State.feed, State.onScreen, State.screen_setScreen]
  by_cases hj : j = i
  · subst hj
    have : q ≠ k := fun e => h ⟨rfl, e⟩
    simp [Screen.feed_setFeed, this]
  · simp [hj]

theorem State.line_setLine : (s.setLine n l).line m = if m = n then l else s.line m := by
  unfold State.line State.setLine
  by_cases h : m = n
  · subst h; simp
  · have : n.val ≠ m.val := fun e => h (Fin.ext e.symm)
    simp [h, this]

@[simp] theorem State.line_setLine_same : (s.setLine n l).line n = l := by simp [State.line_setLine]

theorem State.line_setLine_other (h : m ≠ n) : (s.setLine n l).line m = s.line m := by simp [State.line_setLine, h]

@[simp] theorem State.setLine_setLine (l2 : Line) : (s.setLine n l).setLine n l2 = s.setLine n l2 := by
  simp [State.setLine]

@[simp] theorem State.setScreen_setScreen (x2 : Screen) : (s.setScreen i x).setScreen i x2 = s.setScreen i x2 := by
  simp [State.setScreen]

theorem SlotId.index_inj {a b : SlotId} (h : a.index = b.index) : a = b := by
  cases a <;> cases b <;> simp only [SlotId.index, Fin.mk.injEq] at h
  · congr 1 <;> apply Fin.ext <;> omega
  · omega
  · omega
  · congr 1; apply Fin.ext; omega

@[simp] theorem State.slot_onSlot_same : (s.onSlot id w).slot id = w (s.slot id) := by simp [State.onSlot, State.slot]

theorem State.slot_onSlot_other (id2 : SlotId) (h : id2 ≠ id) : (s.onSlot id w).slot id2 = s.slot id2 := by
  have hi : id.index.val ≠ id2.index.val := fun e => h (SlotId.index_inj (Fin.ext e.symm))
  unfold State.onSlot
  simp only [State.slot, Fin.getElem_fin]
  rw [Vector.getElem_set]
  simp [hi]

/-! ## What `State.setScreen` leaves -/

@[simp] theorem State.setScreen_device : (s.setScreen i x).device = s.device := rfl
@[simp] theorem State.setScreen_lockInput : (s.setScreen i x).lockInput = s.lockInput := rfl
@[simp] theorem State.setScreen_freeCount : (s.setScreen i x).freeCount = s.freeCount := rfl
@[simp] theorem State.setScreen_pending : (s.setScreen i x).pending = s.pending := rfl
@[simp] theorem State.setScreen_prog : (s.setScreen i x).prog = s.prog := rfl
@[simp] theorem State.setScreen_sense : (s.setScreen i x).sense = s.sense := rfl
@[simp] theorem State.setScreen_lockLost : (s.setScreen i x).lockLost = s.lockLost := rfl
@[simp] theorem State.setScreen_integrityAcc : (s.setScreen i x).integrityAcc = s.integrityAcc := rfl
@[simp] theorem State.setScreen_integrityCount : (s.setScreen i x).integrityCount = s.integrityCount := rfl
@[simp] theorem State.setScreen_windowCount : (s.setScreen i x).windowCount = s.windowCount := rfl
@[simp] theorem State.setScreen_outSeq : (s.setScreen i x).outSeq = s.outSeq := rfl
@[simp] theorem State.setScreen_periodOpen : (s.setScreen i x).periodOpen = s.periodOpen := rfl
@[simp] theorem State.setScreen_periodLocked : (s.setScreen i x).periodLocked = s.periodLocked := rfl
@[simp] theorem State.setScreen_periodStarting : (s.setScreen i x).periodStarting = s.periodStarting := rfl
@[simp] theorem State.setScreen_feedOut : (s.setScreen i x).feedOut = s.feedOut := rfl
@[simp] theorem State.setScreen_returnOut : (s.setScreen i x).returnOut = s.returnOut := rfl
@[simp] theorem State.setScreen_cache : (s.setScreen i x).cache = s.cache := rfl
@[simp] theorem State.setScreen_slots : (s.setScreen i x).slots = s.slots := rfl
@[simp] theorem State.setScreen_array : (s.setScreen i x).array = s.array := rfl
@[simp] theorem State.setScreen_staging : (s.setScreen i x).staging = s.staging := rfl
@[simp] theorem State.setScreen_commit : (s.setScreen i x).commit = s.commit := rfl
@[simp] theorem State.setScreen_storeNotices : (s.setScreen i x).storeNotices = s.storeNotices := rfl
@[simp] theorem State.setScreen_port : (s.setScreen i x).port = s.port := rfl
@[simp] theorem State.setScreen_refreshes : (s.setScreen i x).refreshes = s.refreshes := rfl
@[simp] theorem State.setScreen_dropRefresh : (s.setScreen i x).dropRefresh = s.dropRefresh := rfl
@[simp] theorem State.setScreen_engineWork : (s.setScreen i x).engineWork = s.engineWork := rfl
@[simp] theorem State.setScreen_scan : (s.setScreen i x).scan = s.scan := rfl
@[simp] theorem State.setScreen_scanBuf : (s.setScreen i x).scanBuf = s.scanBuf := rfl
@[simp] theorem State.setScreen_trunk : (s.setScreen i x).trunk = s.trunk := rfl
@[simp] theorem State.setScreen_senselink : (s.setScreen i x).senselink = s.senselink := rfl
@[simp] theorem State.setScreen_alarms : (s.setScreen i x).alarms = s.alarms := rfl
@[simp] theorem State.setScreen_marks : (s.setScreen i x).marks = s.marks := rfl
@[simp] theorem State.setScreen_lines : (s.setScreen i x).lines = s.lines := rfl
@[simp] theorem State.setScreen_asm : (s.setScreen i x).asm = s.asm := rfl
@[simp] theorem State.setScreen_held : (s.setScreen i x).held = s.held := rfl
@[simp] theorem State.setScreen_holdBuf : (s.setScreen i x).holdBuf = s.holdBuf := rfl
@[simp] theorem State.setScreen_replies : (s.setScreen i x).replies = s.replies := rfl
@[simp] theorem State.setScreen_laneLoss : (s.setScreen i x).laneLoss = s.laneLoss := rfl
@[simp] theorem State.setScreen_crcReject : (s.setScreen i x).crcReject = s.crcReject := rfl
@[simp] theorem State.setScreen_overrun : (s.setScreen i x).overrun = s.overrun := rfl
@[simp] theorem State.setScreen_commitEnded : (s.setScreen i x).commitEnded = s.commitEnded := rfl
@[simp] theorem State.setScreen_tx : (s.setScreen i x).tx = s.tx := rfl

/-! ## What `State.onScreen` leaves -/

@[simp] theorem State.onScreen_device : (s.onScreen i f).device = s.device := rfl
@[simp] theorem State.onScreen_lockInput : (s.onScreen i f).lockInput = s.lockInput := rfl
@[simp] theorem State.onScreen_freeCount : (s.onScreen i f).freeCount = s.freeCount := rfl
@[simp] theorem State.onScreen_pending : (s.onScreen i f).pending = s.pending := rfl
@[simp] theorem State.onScreen_prog : (s.onScreen i f).prog = s.prog := rfl
@[simp] theorem State.onScreen_sense : (s.onScreen i f).sense = s.sense := rfl
@[simp] theorem State.onScreen_lockLost : (s.onScreen i f).lockLost = s.lockLost := rfl
@[simp] theorem State.onScreen_integrityAcc : (s.onScreen i f).integrityAcc = s.integrityAcc := rfl
@[simp] theorem State.onScreen_integrityCount : (s.onScreen i f).integrityCount = s.integrityCount := rfl
@[simp] theorem State.onScreen_windowCount : (s.onScreen i f).windowCount = s.windowCount := rfl
@[simp] theorem State.onScreen_outSeq : (s.onScreen i f).outSeq = s.outSeq := rfl
@[simp] theorem State.onScreen_periodOpen : (s.onScreen i f).periodOpen = s.periodOpen := rfl
@[simp] theorem State.onScreen_periodLocked : (s.onScreen i f).periodLocked = s.periodLocked := rfl
@[simp] theorem State.onScreen_periodStarting : (s.onScreen i f).periodStarting = s.periodStarting := rfl
@[simp] theorem State.onScreen_feedOut : (s.onScreen i f).feedOut = s.feedOut := rfl
@[simp] theorem State.onScreen_returnOut : (s.onScreen i f).returnOut = s.returnOut := rfl
@[simp] theorem State.onScreen_cache : (s.onScreen i f).cache = s.cache := rfl
@[simp] theorem State.onScreen_slots : (s.onScreen i f).slots = s.slots := rfl
@[simp] theorem State.onScreen_array : (s.onScreen i f).array = s.array := rfl
@[simp] theorem State.onScreen_staging : (s.onScreen i f).staging = s.staging := rfl
@[simp] theorem State.onScreen_commit : (s.onScreen i f).commit = s.commit := rfl
@[simp] theorem State.onScreen_storeNotices : (s.onScreen i f).storeNotices = s.storeNotices := rfl
@[simp] theorem State.onScreen_port : (s.onScreen i f).port = s.port := rfl
@[simp] theorem State.onScreen_refreshes : (s.onScreen i f).refreshes = s.refreshes := rfl
@[simp] theorem State.onScreen_dropRefresh : (s.onScreen i f).dropRefresh = s.dropRefresh := rfl
@[simp] theorem State.onScreen_engineWork : (s.onScreen i f).engineWork = s.engineWork := rfl
@[simp] theorem State.onScreen_scan : (s.onScreen i f).scan = s.scan := rfl
@[simp] theorem State.onScreen_scanBuf : (s.onScreen i f).scanBuf = s.scanBuf := rfl
@[simp] theorem State.onScreen_trunk : (s.onScreen i f).trunk = s.trunk := rfl
@[simp] theorem State.onScreen_senselink : (s.onScreen i f).senselink = s.senselink := rfl
@[simp] theorem State.onScreen_alarms : (s.onScreen i f).alarms = s.alarms := rfl
@[simp] theorem State.onScreen_marks : (s.onScreen i f).marks = s.marks := rfl
@[simp] theorem State.onScreen_lines : (s.onScreen i f).lines = s.lines := rfl
@[simp] theorem State.onScreen_asm : (s.onScreen i f).asm = s.asm := rfl
@[simp] theorem State.onScreen_held : (s.onScreen i f).held = s.held := rfl
@[simp] theorem State.onScreen_holdBuf : (s.onScreen i f).holdBuf = s.holdBuf := rfl
@[simp] theorem State.onScreen_replies : (s.onScreen i f).replies = s.replies := rfl
@[simp] theorem State.onScreen_laneLoss : (s.onScreen i f).laneLoss = s.laneLoss := rfl
@[simp] theorem State.onScreen_crcReject : (s.onScreen i f).crcReject = s.crcReject := rfl
@[simp] theorem State.onScreen_overrun : (s.onScreen i f).overrun = s.overrun := rfl
@[simp] theorem State.onScreen_commitEnded : (s.onScreen i f).commitEnded = s.commitEnded := rfl
@[simp] theorem State.onScreen_tx : (s.onScreen i f).tx = s.tx := rfl

/-! ## What `State.onFeed` leaves -/

@[simp] theorem State.onFeed_device : (s.onFeed i k g).device = s.device := rfl
@[simp] theorem State.onFeed_lockInput : (s.onFeed i k g).lockInput = s.lockInput := rfl
@[simp] theorem State.onFeed_freeCount : (s.onFeed i k g).freeCount = s.freeCount := rfl
@[simp] theorem State.onFeed_pending : (s.onFeed i k g).pending = s.pending := rfl
@[simp] theorem State.onFeed_prog : (s.onFeed i k g).prog = s.prog := rfl
@[simp] theorem State.onFeed_sense : (s.onFeed i k g).sense = s.sense := rfl
@[simp] theorem State.onFeed_lockLost : (s.onFeed i k g).lockLost = s.lockLost := rfl
@[simp] theorem State.onFeed_integrityAcc : (s.onFeed i k g).integrityAcc = s.integrityAcc := rfl
@[simp] theorem State.onFeed_integrityCount : (s.onFeed i k g).integrityCount = s.integrityCount := rfl
@[simp] theorem State.onFeed_windowCount : (s.onFeed i k g).windowCount = s.windowCount := rfl
@[simp] theorem State.onFeed_outSeq : (s.onFeed i k g).outSeq = s.outSeq := rfl
@[simp] theorem State.onFeed_periodOpen : (s.onFeed i k g).periodOpen = s.periodOpen := rfl
@[simp] theorem State.onFeed_periodLocked : (s.onFeed i k g).periodLocked = s.periodLocked := rfl
@[simp] theorem State.onFeed_periodStarting : (s.onFeed i k g).periodStarting = s.periodStarting := rfl
@[simp] theorem State.onFeed_feedOut : (s.onFeed i k g).feedOut = s.feedOut := rfl
@[simp] theorem State.onFeed_returnOut : (s.onFeed i k g).returnOut = s.returnOut := rfl
@[simp] theorem State.onFeed_cache : (s.onFeed i k g).cache = s.cache := rfl
@[simp] theorem State.onFeed_slots : (s.onFeed i k g).slots = s.slots := rfl
@[simp] theorem State.onFeed_array : (s.onFeed i k g).array = s.array := rfl
@[simp] theorem State.onFeed_staging : (s.onFeed i k g).staging = s.staging := rfl
@[simp] theorem State.onFeed_commit : (s.onFeed i k g).commit = s.commit := rfl
@[simp] theorem State.onFeed_storeNotices : (s.onFeed i k g).storeNotices = s.storeNotices := rfl
@[simp] theorem State.onFeed_port : (s.onFeed i k g).port = s.port := rfl
@[simp] theorem State.onFeed_refreshes : (s.onFeed i k g).refreshes = s.refreshes := rfl
@[simp] theorem State.onFeed_dropRefresh : (s.onFeed i k g).dropRefresh = s.dropRefresh := rfl
@[simp] theorem State.onFeed_engineWork : (s.onFeed i k g).engineWork = s.engineWork := rfl
@[simp] theorem State.onFeed_scan : (s.onFeed i k g).scan = s.scan := rfl
@[simp] theorem State.onFeed_scanBuf : (s.onFeed i k g).scanBuf = s.scanBuf := rfl
@[simp] theorem State.onFeed_trunk : (s.onFeed i k g).trunk = s.trunk := rfl
@[simp] theorem State.onFeed_senselink : (s.onFeed i k g).senselink = s.senselink := rfl
@[simp] theorem State.onFeed_alarms : (s.onFeed i k g).alarms = s.alarms := rfl
@[simp] theorem State.onFeed_marks : (s.onFeed i k g).marks = s.marks := rfl
@[simp] theorem State.onFeed_lines : (s.onFeed i k g).lines = s.lines := rfl
@[simp] theorem State.onFeed_asm : (s.onFeed i k g).asm = s.asm := rfl
@[simp] theorem State.onFeed_held : (s.onFeed i k g).held = s.held := rfl
@[simp] theorem State.onFeed_holdBuf : (s.onFeed i k g).holdBuf = s.holdBuf := rfl
@[simp] theorem State.onFeed_replies : (s.onFeed i k g).replies = s.replies := rfl
@[simp] theorem State.onFeed_laneLoss : (s.onFeed i k g).laneLoss = s.laneLoss := rfl
@[simp] theorem State.onFeed_crcReject : (s.onFeed i k g).crcReject = s.crcReject := rfl
@[simp] theorem State.onFeed_overrun : (s.onFeed i k g).overrun = s.overrun := rfl
@[simp] theorem State.onFeed_commitEnded : (s.onFeed i k g).commitEnded = s.commitEnded := rfl
@[simp] theorem State.onFeed_tx : (s.onFeed i k g).tx = s.tx := rfl

/-! ## What `State.setLine` leaves -/

@[simp] theorem State.setLine_device : (s.setLine n l).device = s.device := rfl
@[simp] theorem State.setLine_lockInput : (s.setLine n l).lockInput = s.lockInput := rfl
@[simp] theorem State.setLine_freeCount : (s.setLine n l).freeCount = s.freeCount := rfl
@[simp] theorem State.setLine_pending : (s.setLine n l).pending = s.pending := rfl
@[simp] theorem State.setLine_prog : (s.setLine n l).prog = s.prog := rfl
@[simp] theorem State.setLine_sense : (s.setLine n l).sense = s.sense := rfl
@[simp] theorem State.setLine_lockLost : (s.setLine n l).lockLost = s.lockLost := rfl
@[simp] theorem State.setLine_integrityAcc : (s.setLine n l).integrityAcc = s.integrityAcc := rfl
@[simp] theorem State.setLine_integrityCount : (s.setLine n l).integrityCount = s.integrityCount := rfl
@[simp] theorem State.setLine_windowCount : (s.setLine n l).windowCount = s.windowCount := rfl
@[simp] theorem State.setLine_outSeq : (s.setLine n l).outSeq = s.outSeq := rfl
@[simp] theorem State.setLine_periodOpen : (s.setLine n l).periodOpen = s.periodOpen := rfl
@[simp] theorem State.setLine_periodLocked : (s.setLine n l).periodLocked = s.periodLocked := rfl
@[simp] theorem State.setLine_periodStarting : (s.setLine n l).periodStarting = s.periodStarting := rfl
@[simp] theorem State.setLine_feedOut : (s.setLine n l).feedOut = s.feedOut := rfl
@[simp] theorem State.setLine_returnOut : (s.setLine n l).returnOut = s.returnOut := rfl
@[simp] theorem State.setLine_cache : (s.setLine n l).cache = s.cache := rfl
@[simp] theorem State.setLine_screens : (s.setLine n l).screens = s.screens := rfl
@[simp] theorem State.setLine_slots : (s.setLine n l).slots = s.slots := rfl
@[simp] theorem State.setLine_array : (s.setLine n l).array = s.array := rfl
@[simp] theorem State.setLine_staging : (s.setLine n l).staging = s.staging := rfl
@[simp] theorem State.setLine_commit : (s.setLine n l).commit = s.commit := rfl
@[simp] theorem State.setLine_storeNotices : (s.setLine n l).storeNotices = s.storeNotices := rfl
@[simp] theorem State.setLine_port : (s.setLine n l).port = s.port := rfl
@[simp] theorem State.setLine_refreshes : (s.setLine n l).refreshes = s.refreshes := rfl
@[simp] theorem State.setLine_dropRefresh : (s.setLine n l).dropRefresh = s.dropRefresh := rfl
@[simp] theorem State.setLine_engineWork : (s.setLine n l).engineWork = s.engineWork := rfl
@[simp] theorem State.setLine_scan : (s.setLine n l).scan = s.scan := rfl
@[simp] theorem State.setLine_scanBuf : (s.setLine n l).scanBuf = s.scanBuf := rfl
@[simp] theorem State.setLine_trunk : (s.setLine n l).trunk = s.trunk := rfl
@[simp] theorem State.setLine_senselink : (s.setLine n l).senselink = s.senselink := rfl
@[simp] theorem State.setLine_alarms : (s.setLine n l).alarms = s.alarms := rfl
@[simp] theorem State.setLine_marks : (s.setLine n l).marks = s.marks := rfl
@[simp] theorem State.setLine_asm : (s.setLine n l).asm = s.asm := rfl
@[simp] theorem State.setLine_held : (s.setLine n l).held = s.held := rfl
@[simp] theorem State.setLine_holdBuf : (s.setLine n l).holdBuf = s.holdBuf := rfl
@[simp] theorem State.setLine_replies : (s.setLine n l).replies = s.replies := rfl
@[simp] theorem State.setLine_laneLoss : (s.setLine n l).laneLoss = s.laneLoss := rfl
@[simp] theorem State.setLine_crcReject : (s.setLine n l).crcReject = s.crcReject := rfl
@[simp] theorem State.setLine_overrun : (s.setLine n l).overrun = s.overrun := rfl
@[simp] theorem State.setLine_commitEnded : (s.setLine n l).commitEnded = s.commitEnded := rfl
@[simp] theorem State.setLine_tx : (s.setLine n l).tx = s.tx := rfl

/-! ## What `State.onSlot` leaves -/

@[simp] theorem State.onSlot_device : (s.onSlot id w).device = s.device := rfl
@[simp] theorem State.onSlot_lockInput : (s.onSlot id w).lockInput = s.lockInput := rfl
@[simp] theorem State.onSlot_freeCount : (s.onSlot id w).freeCount = s.freeCount := rfl
@[simp] theorem State.onSlot_pending : (s.onSlot id w).pending = s.pending := rfl
@[simp] theorem State.onSlot_prog : (s.onSlot id w).prog = s.prog := rfl
@[simp] theorem State.onSlot_sense : (s.onSlot id w).sense = s.sense := rfl
@[simp] theorem State.onSlot_lockLost : (s.onSlot id w).lockLost = s.lockLost := rfl
@[simp] theorem State.onSlot_integrityAcc : (s.onSlot id w).integrityAcc = s.integrityAcc := rfl
@[simp] theorem State.onSlot_integrityCount : (s.onSlot id w).integrityCount = s.integrityCount := rfl
@[simp] theorem State.onSlot_windowCount : (s.onSlot id w).windowCount = s.windowCount := rfl
@[simp] theorem State.onSlot_outSeq : (s.onSlot id w).outSeq = s.outSeq := rfl
@[simp] theorem State.onSlot_periodOpen : (s.onSlot id w).periodOpen = s.periodOpen := rfl
@[simp] theorem State.onSlot_periodLocked : (s.onSlot id w).periodLocked = s.periodLocked := rfl
@[simp] theorem State.onSlot_periodStarting : (s.onSlot id w).periodStarting = s.periodStarting := rfl
@[simp] theorem State.onSlot_feedOut : (s.onSlot id w).feedOut = s.feedOut := rfl
@[simp] theorem State.onSlot_returnOut : (s.onSlot id w).returnOut = s.returnOut := rfl
@[simp] theorem State.onSlot_cache : (s.onSlot id w).cache = s.cache := rfl
@[simp] theorem State.onSlot_screens : (s.onSlot id w).screens = s.screens := rfl
@[simp] theorem State.onSlot_array : (s.onSlot id w).array = s.array := rfl
@[simp] theorem State.onSlot_staging : (s.onSlot id w).staging = s.staging := rfl
@[simp] theorem State.onSlot_commit : (s.onSlot id w).commit = s.commit := rfl
@[simp] theorem State.onSlot_storeNotices : (s.onSlot id w).storeNotices = s.storeNotices := rfl
@[simp] theorem State.onSlot_port : (s.onSlot id w).port = s.port := rfl
@[simp] theorem State.onSlot_refreshes : (s.onSlot id w).refreshes = s.refreshes := rfl
@[simp] theorem State.onSlot_dropRefresh : (s.onSlot id w).dropRefresh = s.dropRefresh := rfl
@[simp] theorem State.onSlot_engineWork : (s.onSlot id w).engineWork = s.engineWork := rfl
@[simp] theorem State.onSlot_scan : (s.onSlot id w).scan = s.scan := rfl
@[simp] theorem State.onSlot_scanBuf : (s.onSlot id w).scanBuf = s.scanBuf := rfl
@[simp] theorem State.onSlot_trunk : (s.onSlot id w).trunk = s.trunk := rfl
@[simp] theorem State.onSlot_senselink : (s.onSlot id w).senselink = s.senselink := rfl
@[simp] theorem State.onSlot_alarms : (s.onSlot id w).alarms = s.alarms := rfl
@[simp] theorem State.onSlot_marks : (s.onSlot id w).marks = s.marks := rfl
@[simp] theorem State.onSlot_lines : (s.onSlot id w).lines = s.lines := rfl
@[simp] theorem State.onSlot_asm : (s.onSlot id w).asm = s.asm := rfl
@[simp] theorem State.onSlot_held : (s.onSlot id w).held = s.held := rfl
@[simp] theorem State.onSlot_holdBuf : (s.onSlot id w).holdBuf = s.holdBuf := rfl
@[simp] theorem State.onSlot_replies : (s.onSlot id w).replies = s.replies := rfl
@[simp] theorem State.onSlot_laneLoss : (s.onSlot id w).laneLoss = s.laneLoss := rfl
@[simp] theorem State.onSlot_crcReject : (s.onSlot id w).crcReject = s.crcReject := rfl
@[simp] theorem State.onSlot_overrun : (s.onSlot id w).overrun = s.overrun := rfl
@[simp] theorem State.onSlot_commitEnded : (s.onSlot id w).commitEnded = s.commitEnded := rfl
@[simp] theorem State.onSlot_tx : (s.onSlot id w).tx = s.tx := rfl

/-! ## What the updates of a screen's feeds leave -/

variable (y : Feed) (h : Fin 16 → Feed → Feed)

@[simp] theorem Screen.setFeed_tracker : (x.setFeed k y).tracker = x.tracker := rfl
@[simp] theorem Screen.setFeed_handed : (x.setFeed k y).handed = x.handed := rfl
@[simp] theorem Screen.setFeed_override : (x.setFeed k y).override = x.override := rfl
@[simp] theorem Screen.setFeed_master : (x.setFeed k y).master = x.master := rfl
@[simp] theorem Screen.setFeed_mute : (x.setFeed k y).mute = x.mute := rfl
@[simp] theorem Screen.setFeed_muted : (x.setFeed k y).muted = x.muted := rfl
@[simp] theorem Screen.setFeed_live : (x.setFeed k y).live = x.live := rfl
@[simp] theorem Screen.setFeed_source : (x.setFeed k y).source = x.source := rfl
@[simp] theorem Screen.setFeed_stale : (x.setFeed k y).stale = x.stale := rfl
@[simp] theorem Screen.setFeed_phase : (x.setFeed k y).phase = x.phase := rfl
@[simp] theorem Screen.setFeed_running : (x.setFeed k y).running = x.running := rfl
@[simp] theorem Screen.setFeed_waiting : (x.setFeed k y).waiting = x.waiting := rfl
@[simp] theorem Screen.setFeed_loadBuf : (x.setFeed k y).loadBuf = x.loadBuf := rfl
@[simp] theorem Screen.setFeed_fadeIn : (x.setFeed k y).fadeIn = x.fadeIn := rfl
@[simp] theorem Screen.setFeed_muteZero : (x.setFeed k y).muteZero = x.muteZero := rfl
@[simp] theorem Screen.setFeed_showLock : (x.setFeed k y).showLock = x.showLock := rfl
@[simp] theorem Screen.setFeed_cues : (x.setFeed k y).cues = x.cues := rfl
@[simp] theorem Screen.setFeed_counter : (x.setFeed k y).counter = x.counter := rfl
@[simp] theorem Screen.setFeed_tracking : (x.setFeed k y).tracking = x.tracking := rfl
@[simp] theorem Screen.setFeed_enginePos : (x.setFeed k y).enginePos = x.enginePos := rfl
@[simp] theorem Screen.setFeed_pointer : (x.setFeed k y).pointer = x.pointer := rfl
@[simp] theorem Screen.setFeed_track : (x.setFeed k y).track = x.track := rfl
@[simp] theorem Screen.setFeed_dropout : (x.setFeed k y).dropout = x.dropout := rfl
@[simp] theorem Screen.setFeed_preset : (x.setFeed k y).preset = x.preset := rfl
@[simp] theorem Screen.setFeed_cue : (x.setFeed k y).cue = x.cue := rfl
@[simp] theorem Screen.setFeed_alarmActive : (x.setFeed k y).alarmActive = x.alarmActive := rfl
@[simp] theorem Screen.setFeed_alarmLatched : (x.setFeed k y).alarmLatched = x.alarmLatched := rfl

@[simp] theorem Screen.mapFeeds_tracker : (x.mapFeeds h).tracker = x.tracker := rfl
@[simp] theorem Screen.mapFeeds_handed : (x.mapFeeds h).handed = x.handed := rfl
@[simp] theorem Screen.mapFeeds_override : (x.mapFeeds h).override = x.override := rfl
@[simp] theorem Screen.mapFeeds_master : (x.mapFeeds h).master = x.master := rfl
@[simp] theorem Screen.mapFeeds_mute : (x.mapFeeds h).mute = x.mute := rfl
@[simp] theorem Screen.mapFeeds_muted : (x.mapFeeds h).muted = x.muted := rfl
@[simp] theorem Screen.mapFeeds_live : (x.mapFeeds h).live = x.live := rfl
@[simp] theorem Screen.mapFeeds_source : (x.mapFeeds h).source = x.source := rfl
@[simp] theorem Screen.mapFeeds_stale : (x.mapFeeds h).stale = x.stale := rfl
@[simp] theorem Screen.mapFeeds_phase : (x.mapFeeds h).phase = x.phase := rfl
@[simp] theorem Screen.mapFeeds_running : (x.mapFeeds h).running = x.running := rfl
@[simp] theorem Screen.mapFeeds_waiting : (x.mapFeeds h).waiting = x.waiting := rfl
@[simp] theorem Screen.mapFeeds_loadBuf : (x.mapFeeds h).loadBuf = x.loadBuf := rfl
@[simp] theorem Screen.mapFeeds_fadeIn : (x.mapFeeds h).fadeIn = x.fadeIn := rfl
@[simp] theorem Screen.mapFeeds_muteZero : (x.mapFeeds h).muteZero = x.muteZero := rfl
@[simp] theorem Screen.mapFeeds_showLock : (x.mapFeeds h).showLock = x.showLock := rfl
@[simp] theorem Screen.mapFeeds_cues : (x.mapFeeds h).cues = x.cues := rfl
@[simp] theorem Screen.mapFeeds_counter : (x.mapFeeds h).counter = x.counter := rfl
@[simp] theorem Screen.mapFeeds_tracking : (x.mapFeeds h).tracking = x.tracking := rfl
@[simp] theorem Screen.mapFeeds_enginePos : (x.mapFeeds h).enginePos = x.enginePos := rfl
@[simp] theorem Screen.mapFeeds_pointer : (x.mapFeeds h).pointer = x.pointer := rfl
@[simp] theorem Screen.mapFeeds_track : (x.mapFeeds h).track = x.track := rfl
@[simp] theorem Screen.mapFeeds_dropout : (x.mapFeeds h).dropout = x.dropout := rfl
@[simp] theorem Screen.mapFeeds_preset : (x.mapFeeds h).preset = x.preset := rfl
@[simp] theorem Screen.mapFeeds_cue : (x.mapFeeds h).cue = x.cue := rfl
@[simp] theorem Screen.mapFeeds_alarmActive : (x.mapFeeds h).alarmActive = x.alarmActive := rfl
@[simp] theorem Screen.mapFeeds_alarmLatched : (x.mapFeeds h).alarmLatched = x.alarmLatched := rfl

end Sys2Proof.Machine
end

