-- ==== Sys2Proof/Laws/Keeps.lean ====
section
/-! SUPPORT. What each shared operation can do, said once: a property of states that is closed under the few elementary
changes an operation may make is kept by the operation. A frame ("this field is left") is the case of the property "the
field is what it was". -/

namespace Sys2Proof.Machine

/-! ## The elementary changes -/

/-- What a screen's tracker handed to the decode engine: code, mask and samples (R18). The override in force is beside it. -/
def Screen.sent (x : Screen) : Fin 16 × Byte × List (List Int) := (x.handed.code, x.handed.mask, x.handed.tracks)

/-- y differs from x in nothing that only events of their own change: tracker and what it handed, cue list and engine, show
lock, alarm sources. -/
structure Screen.Quiet (x y : Screen) : Prop where
  tracker : y.tracker = x.tracker
  cues : y.cues = x.cues
  counter : y.counter = x.counter
  tracking : y.tracking = x.tracking
  enginePos : y.enginePos = x.enginePos
  pointer : y.pointer = x.pointer
  showLock : y.showLock = x.showLock
  track : y.track = x.track
  dropout : y.dropout = x.dropout
  preset : y.preset = x.preset
  cue : y.cue = x.cue
  sent : y.sent = x.sent
  overload : ∀ k, (y.feed k).overload = (x.feed k).overload
  silent : ∀ k, (y.feed k).silent = (x.feed k).silent
  mismatch : ∀ k, (y.feed k).mismatch = (x.feed k).mismatch

/-- The same for a tracker update, which may also send the cue engine IDLE. -/
structure Screen.Tracked (x y : Screen) : Prop where
  cues : y.cues = x.cues
  counter : y.counter = x.counter
  tracking : y.tracking = true → x.tracking = true
  enginePos : y.enginePos = x.enginePos
  pointer : y.pointer = x.pointer
  showLock : y.showLock = x.showLock
  track : y.track = x.track
  dropout : y.dropout = x.dropout
  preset : y.preset = x.preset
  cue : y.cue = x.cue
  overload : ∀ k, (y.feed k).overload = (x.feed k).overload
  silent : ∀ k, (y.feed k).silent = (x.feed k).silent
  mismatch : ∀ k, (y.feed k).mismatch = (x.feed k).mismatch

/-- A source that is ACTIVE or RELEASE is latched (R99). -/
def Source.Latches (x : Source) : Prop := x.isUp = true → x.latched = true

/-- A change of a source that does not break R99, and leaves its unreported flag (R124). -/
structure Source.Sound (x y : Source) : Prop where
  latches : x.Latches → y.Latches
  unreported : y.unreported = x.unreported

/-- Closed under quiet changes of a screen. -/
structure KeepsScreens (P : State → Prop) : Prop where
  screen : ∀ (s : State) i y, (s.screen i).Quiet y → P s → P (s.setScreen i y)

/-- Closed under tracker updates of a screen. -/
structure KeepsTracker (P : State → Prop) : Prop extends KeepsScreens P where
  track : ∀ (s : State) i y, (s.screen i).Tracked y → P s → P (s.setScreen i y)

/-- Closed under changes of the screens, the alarm sources and the alarm list, which grows one record at a time below its 64
places, by a source that has none and is not deferred; a source without a record may be deferred (R125). -/
structure KeepsAlarms (P : State → Prop) : Prop extends KeepsScreens P where
  source : ∀ (s : State) id y, (s.source id).Sound y → P s → P (s.setSource id y)
  defer : ∀ (s : State) id n, s.queued id = false → P s →
    P (s.setSource id { s.source id with unreported := true, unreportedCount := n })
  alarmUpdate : ∀ s l, l.map AlarmRecord.src = s.alarms.map AlarmRecord.src → P s → P { s with alarms := l }
  alarmAdd : ∀ s r, s.queued r.src = false → (s.source r.src).unreported = false → s.alarms.length < Config.alarmPlaces →
    P s → P { s with alarms := s.alarms ++ [r] }

/-- Closed under changes of the lines. -/
structure KeepsLines (P : State → Prop) : Prop where
  lines : ∀ s x, P s → P { s with lines := x }

/-- The state a commit is in while its unit holds the port (R68). -/
def PortWork.CommitIn (w : PortWork) (x : CommitState) : Prop :=
  (w = .commitWrite ∧ x = .writing) ∨ (w = .commitVerify ∧ x = .verifying)

/-- Work that is a unit of a commit. -/
def PortWork.OfCommit (w : PortWork) : Prop := w = .commitWrite ∨ w = .commitVerify

/-- Closed under what a grant of the store port changes: other work than a commit's, the port's being freed, and a waiting
commit's next unit. -/
structure KeepsGrant (P : State → Prop) : Prop extends KeepsScreens P where
  slots : ∀ s x, P s → P { s with slots := x }
  refreshes : ∀ s x, P s → P { s with refreshes := x }
  portTo : ∀ s w n, ¬ PortWork.OfCommit w → P s → P { s with port := some ⟨w, n⟩ }
  portFree : ∀ s, P s → P { s with port := none }
  portAge : ∀ (s : State), P s → P s.ageUnit
  commitUnit : ∀ s w c, s.commit.state = .waiting → w.CommitIn c.state → P s → P { s with port := some ⟨w, 0⟩, commit := c }

/-- Closed under what a cue can change: a mark notice is added below the queue's 16 places. -/
structure KeepsCues (P : State → Prop) : Prop extends KeepsAlarms P, KeepsGrant P, KeepsLines P where
  arrive : ∀ (s : State) i p, P s → P (s.onScreen i fun x => x.arrive p)
  markAdd : ∀ s n, s.marks.length < Config.markPlaces → P s → P { s with marks := s.marks ++ [n] }

/-- Closed under what the end of a unit of store work can change. -/
structure KeepsStore (P : State → Prop) : Prop extends KeepsAlarms P, KeepsGrant P where
  cache : ∀ s x, P s → P { s with cache := x }
  dropRefresh : ∀ s x, P s → P { s with dropRefresh := x }
  engineWork : ∀ s x, P s → P { s with engineWork := x }
  scan : ∀ s x, P s → P { s with scan := x }
  scanBuf : ∀ s x, P s → P { s with scanBuf := x }
  commitWaits : ∀ s c p, s.port = some p → p.work.OfCommit → c.state = .waiting → P s → P { s with port := none, commit := c }
  commitNext : ∀ s c, c.state = s.commit.state → P s → P { s with commit := c }
  commitEnds : ∀ s c n, s.commit.state = .waiting → c.state = .idle → P s →
    P { s with commit := c, commitEnded := true, storeNotices := s.storeNotices ++ [n] }
  commitEnded : ∀ s x, P s → P { s with commitEnded := x }
  device : ∀ s x, P s → P { s with device := x }
  held : ∀ s x, P s → P { s with held := x }
  replyChange : ∀ s l, l.length = s.replies.length → P s → P { s with replies := l }
  writeStaging : ∀ (s : State) n l, P s → P (s.writeStaging n l)
  writeArray : ∀ (s : State) n l, P s → P (s.writeArray n l)

/-- Whether a cue may enter a screen's list: a new id, a free record, room in the list, a number left (R141). -/
structure State.Insertable (s : State) (i : Fin 12) (c : Cue) : Prop where
  fresh : ∀ d ∈ (s.screen i).cues, d.id ≠ c.id
  pool : s.freeCues ≠ 0
  list : (s.screen i).cues.length < Config.listCap
  number : (s.screen i).counter < Config.counterEnd

/-- A change of a cue that touches its tag mark alone (R140, R145, R146). -/
def Retags (f : Cue → Cue) : Prop := ∀ c, { f c with tagged := c.tagged } = c

/-- Closed under what a request can change beside its reply. -/
structure KeepsRequests (P : State → Prop) : Prop extends KeepsCues P, KeepsStore P where
  commitBegin : ∀ s c, s.commit.state = .idle → s.storeNotices.length < Config.noticePlaces → c.state = .waiting → P s →
    P { s with commit := c }
  insert : ∀ (s : State) i c, s.Insertable i c → P s → P (s.onScreen i fun x => x.insert c)
  remove : ∀ (s : State) i g, P s → P (s.onScreen i fun x => x.removeCues g)
  clear : ∀ (s : State) i, P s → P (s.onScreen i Screen.clearCues)
  restartCues : ∀ (s : State) i, P s → P (s.onScreen i Screen.restartCues)
  retag : ∀ (s : State) i f, Retags f → P s → P (s.onScreen i fun x => { x with cues := x.cues.map f })
  lock : ∀ (s : State) i v, P s → P (s.setShowLock i v)
  lockLost : ∀ s x, P s → P { s with lockLost := x }
  stageClear : ∀ s, P s → P { s with staging := [] }

/-- Closed under what the control lane engine can change: a reply is added below the queue's 8 places. -/
structure KeepsLane (P : State → Prop) : Prop extends KeepsRequests P where
  holdBuf : ∀ s x, P s → P { s with holdBuf := x }
  overrun : ∀ s x, P s → P { s with overrun := x }
  crcReject : ∀ s x, P s → P { s with crcReject := x }
  asm : ∀ s x, P s → P { s with asm := x }
  laneLoss : ∀ s x, P s → P { s with laneLoss := x }
  replyAdd : ∀ s r, s.replies.length < Config.replyPlaces → P s → P { s with replies := s.replies ++ [r] }

/-- Closed under what the end of a block period and the opening of the next can change. -/
structure KeepsClock (P : State → Prop) : Prop extends KeepsLane P where
  alarmLeaves : ∀ s r l, s.alarms = r :: l → P s → P { s with alarms := l }
  alarmRefill : ∀ s r l x id, s.alarms = r :: l → x.src = id → (s.source id).unreported = true → P s →
    P (State.setSource { s with alarms := l ++ [x] } id { s.source id with unreported := false, unreportedCount := 0 })
  markLeaves : ∀ s n l, s.marks = n :: l → P s → P { s with marks := l }
  noticeLeaves : ∀ s n l, s.storeNotices = n :: l → P s → P { s with storeNotices := l }
  replyLeaves : ∀ s r l, s.replies = r :: l → P s → P { s with replies := l }
  integrityAcc : ∀ s x, P s → P { s with integrityAcc := x }
  integrityCount : ∀ s x, P s → P { s with integrityCount := x }
  windowCount : ∀ s x, P s → P { s with windowCount := x }
  outSeq : ∀ s x, P s → P { s with outSeq := x }
  periodOpen : ∀ s x, P s → P { s with periodOpen := x }
  periodLocked : ∀ s x, P s → P { s with periodLocked := x }
  periodStarting : ∀ s x, P s → P { s with periodStarting := x }
  feedOut : ∀ s x, P s → P { s with feedOut := x }
  returnOut : ∀ s x, P s → P { s with returnOut := x }
  tx : ∀ s x, P s → P { s with tx := x }

/-- Closed under what the trunk and the pins can change as well. -/
structure KeepsPeriod (P : State → Prop) : Prop extends KeepsClock P, KeepsTracker P where
  prog : ∀ s x, P s → P { s with prog := x }
  sense : ∀ s x, P s → P { s with sense := x }
  lockInput : ∀ s x, P s → P { s with lockInput := x }

variable {P Q : State → Prop}

theorem KeepsGrant.portRefreshes (h : KeepsGrant P) (s : State) (f : Fin 15) (y : List (Fin 15)) (hs : P s) :
    P { s with port := some ⟨.refresh f, 0⟩, refreshes := y } := by
  refine h.refreshes _ y (h.portTo s _ 0 ?_ hs)
  rintro (e | e) <;> cases e

variable {s : State} {i : Fin 12} {k : Fin 16} {n : Fin 24}

/-! ## Loops -/

theorem foldl_keeps {α : Type} (f : State → α → State) (h : ∀ u a, P u → P (f u a)) (l : List α) :
    ∀ s, P s → P (l.foldl f s) := by
  induction l with
  | nil => exact fun _ hs => hs
  | cons a l ih => exact fun s hs => ih _ (h s a hs)

theorem State.forScreens_keeps {f : Fin 12 → State → State} (h : ∀ i u, P u → P (f i u)) (hs : P s) :
    P (s.forScreens f) := foldl_keeps _ (fun _ i hu => h i _ hu) _ _ hs

theorem State.forFeeds_keeps {f : Fin 12 → Fin 16 → State → State} (h : ∀ i k u, P u → P (f i k u)) (hs : P s) :
    P (s.forFeeds f) :=
  State.forScreens_keeps (fun i _ hu => foldl_keeps _ (fun v k hv => h i k v hv) _ _ hu) hs

theorem State.forLines_keeps {f : Fin 24 → State → State} (h : ∀ n u, P u → P (f n u)) (hs : P s) :
    P (s.forLines f) := foldl_keeps _ (fun u n hu => h n u hu) _ _ hs

/-! ## Screens and feeds -/

variable {x y : Screen}

theorem Screen.Quiet.refl (x : Screen) : x.Quiet x :=
  ⟨rfl, rfl, rfl, rfl, rfl, rfl, rfl, rfl, rfl, rfl, rfl, rfl, fun _ => rfl, fun _ => rfl, fun _ => rfl⟩

theorem Screen.Quiet.tracked (h : x.Quiet y) : x.Tracked y :=
  ⟨h.cues, h.counter, fun e => h.tracking ▸ e, h.enginePos, h.pointer, h.showLock, h.track, h.dropout, h.preset, h.cue,
    h.overload, h.silent, h.mismatch⟩

/-- A change of a feed that leaves its sources is quiet. -/
theorem Screen.quiet_setFeed {f : Feed} (h1 : f.overload = (x.feed k).overload) (h2 : f.silent = (x.feed k).silent)
    (h3 : f.mismatch = (x.feed k).mismatch) : x.Quiet (x.setFeed k f) := by
  refine ⟨rfl, rfl, rfl, rfl, rfl, rfl, rfl, rfl, rfl, rfl, rfl, rfl, ?_, ?_, ?_⟩ <;> intro q <;>
    rw [Screen.feed_setFeed] <;> split
  · rename_i hq; rw [hq, h1]
  · rfl
  · rename_i hq; rw [hq, h2]
  · rfl
  · rename_i hq; rw [hq, h3]
  · rfl

/-- A change of every feed that leaves their sources is quiet. -/
theorem Screen.quiet_mapFeeds {g : Fin 16 → Feed → Feed} (h1 : ∀ k f, (g k f).overload = f.overload)
    (h2 : ∀ k f, (g k f).silent = f.silent) (h3 : ∀ k f, (g k f).mismatch = f.mismatch) : x.Quiet (x.mapFeeds g) := by
  refine ⟨Screen.mapFeeds_tracker x g, Screen.mapFeeds_cues x g, Screen.mapFeeds_counter x g, Screen.mapFeeds_tracking x g,
    Screen.mapFeeds_enginePos x g, Screen.mapFeeds_pointer x g, Screen.mapFeeds_showLock x g, Screen.mapFeeds_track x g,
    Screen.mapFeeds_dropout x g, Screen.mapFeeds_preset x g, Screen.mapFeeds_cue x g, rfl, fun q => ?_, fun q => ?_,
    fun q => ?_⟩
  · rw [Screen.feed_mapFeeds]; exact h1 _ _
  · rw [Screen.feed_mapFeeds]; exact h2 _ _
  · rw [Screen.feed_mapFeeds]; exact h3 _ _

theorem Screen.Quiet.trans {z : Screen} (h : x.Quiet y) (h2 : y.Quiet z) : x.Quiet z :=
  ⟨h2.tracker.trans h.tracker, h2.cues.trans h.cues, h2.counter.trans h.counter, h2.tracking.trans h.tracking,
    h2.enginePos.trans h.enginePos, h2.pointer.trans h.pointer, h2.showLock.trans h.showLock, h2.track.trans h.track,
    h2.dropout.trans h.dropout, h2.preset.trans h.preset, h2.cue.trans h.cue,
    h2.sent.trans h.sent, fun k => (h2.overload k).trans (h.overload k), fun k => (h2.silent k).trans (h.silent k),
    fun k => (h2.mismatch k).trans (h.mismatch k)⟩

/-- A quiet change of a screen. -/
theorem State.onScreen_keeps (h : KeepsScreens P) {f : Screen → Screen} (hs : P s)
    (hq : ∀ x : Screen, x.Quiet (f x) := by
      exact fun _ => ⟨rfl, rfl, rfl, rfl, rfl, rfl, rfl, rfl, rfl, rfl, rfl, rfl, fun _ => rfl, fun _ => rfl, fun _ => rfl⟩) :
    P (s.onScreen i f) := h.screen _ _ _ (hq _) hs

/-- A change of every feed of a screen that leaves their sources. -/
theorem State.mapFeeds_keeps (h : KeepsScreens P) {g : Fin 16 → Feed → Feed} (hs : P s)
    (h1 : ∀ k f, (g k f).overload = f.overload := by exact fun _ _ => rfl)
    (h2 : ∀ k f, (g k f).silent = f.silent := by exact fun _ _ => rfl)
    (h3 : ∀ k f, (g k f).mismatch = f.mismatch := by exact fun _ _ => rfl) :
    P (s.onScreen i fun x => x.mapFeeds g) := State.onScreen_keeps h hs fun _ => Screen.quiet_mapFeeds h1 h2 h3

/-- A change of a feed that leaves its sources. -/
theorem State.onFeed_keeps (h : KeepsScreens P) {g : Feed → Feed} (hs : P s)
    (h1 : ∀ f, (g f).overload = f.overload := by exact fun _ => rfl)
    (h2 : ∀ f, (g f).silent = f.silent := by exact fun _ => rfl)
    (h3 : ∀ f, (g f).mismatch = f.mismatch := by exact fun _ => rfl) :
    P (s.onFeed i k g) := State.onScreen_keeps h hs fun _ => Screen.quiet_setFeed (h1 _) (h2 _) (h3 _)

theorem Screen.quiet_rebuilt (x : Screen) (f : Format) : x.Quiet (x.rebuilt f) :=
  Screen.quiet_mapFeeds (fun _ _ => rfl) (fun _ _ => rfl) (fun _ _ => rfl)

theorem Screen.quiet_recompute (x : Screen) (d : Device) : x.Quiet (x.recompute d) := by
  unfold Screen.recompute
  split
  · exact Screen.Quiet.refl x
  · exact ⟨rfl, rfl, rfl, rfl, rfl, rfl, rfl, rfl, rfl, rfl, rfl, rfl, fun _ => rfl, fun _ => rfl, fun _ => rfl⟩

theorem State.rebuild_keeps (h : KeepsScreens P) (hs : P s) : P (s.rebuild i) :=
  State.onScreen_keeps h hs fun x => Screen.quiet_rebuilt x _

theorem State.rebuildAll_keeps (h : KeepsScreens P) (hs : P s) : P s.rebuildAll :=
  State.forScreens_keeps (fun _ _ hu => State.rebuild_keeps h hu) hs

theorem State.setOverride_keeps (h : KeepsScreens P) {v : Option (Fin 16)} (hs : P s) : P (s.setOverride i v) :=
  State.rebuild_keeps h (State.onScreen_keeps h hs)

theorem State.takeOverride_keeps (h : KeepsScreens P) {v : Option (Fin 16)} (hs : P s) : P (s.takeOverride i v) :=
  State.setOverride_keeps h (State.onScreen_keeps h hs)

theorem State.setFolded_keeps (h : KeepsScreens P) {v : Bool} (hs : P s) : P (s.setFolded i k v) :=
  State.rebuild_keeps h (State.onFeed_keeps h hs)

theorem State.emptyFoldSet_keeps (h : KeepsScreens P) (hs : P s) : P (s.emptyFoldSet i) :=
  State.rebuild_keeps h (State.mapFeeds_keeps h hs)

theorem State.recomputeMute_keeps (h : KeepsScreens P) (hs : P s) : P (s.recomputeMute i) :=
  State.onScreen_keeps h hs fun x => Screen.quiet_recompute x _

theorem State.loadMaster_keeps (h : KeepsScreens P) {a b : Nat} (hs : P s) : P (s.loadMaster i a b) :=
  State.onScreen_keeps h hs

theorem State.setMuted_keeps (h : KeepsScreens P) {v : Bool} (hs : P s) : P (s.setMuted i v) :=
  State.recomputeMute_keeps h (State.onScreen_keeps h hs)

theorem State.zeroProtect_keeps (h : KeepsScreens P) (hs : P s) : P (s.zeroProtect i) := State.mapFeeds_keeps h hs

theorem State.enterFadeOut_keeps (h : KeepsScreens P) (hs : P s) : P (s.enterFadeOut i) :=
  State.recomputeMute_keeps h (State.onScreen_keeps h hs)

theorem State.trackScreen_keeps (h : KeepsTracker P) {f : Screen → Screen} {x : List (List Int)} (hs : P s)
    (hf : (s.screen i).Tracked (f (s.screen i))) : P (s.trackScreen i f x) := by
  unfold State.trackScreen
  dsimp only
  have h1 : P (s.setScreen i ((f (s.screen i)).handOver x)) :=
    h.track _ _ _ ⟨hf.cues, hf.counter, hf.tracking, hf.enginePos, hf.pointer, hf.showLock, hf.track, hf.dropout,
      hf.preset, hf.cue, hf.overload, hf.silent, hf.mismatch⟩ hs
  split
  · exact h1
  · exact State.rebuild_keeps h.toKeepsScreens h1

theorem Screen.tracked_absentUpdate (x : Screen) : x.Tracked x.absentUpdate := by
  unfold Screen.absentUpdate
  split
  · exact ⟨rfl, rfl, id, rfl, rfl, rfl, rfl, rfl, rfl, rfl, fun _ => rfl, fun _ => rfl, fun _ => rfl⟩
  · split
    · exact ⟨rfl, rfl, fun h => (by simp at h), rfl, rfl, rfl, rfl, rfl, rfl, rfl, fun _ => rfl, fun _ => rfl, fun _ => rfl⟩
    · exact ⟨rfl, rfl, id, rfl, rfl, rfl, rfl, rfl, rfl, rfl, fun _ => rfl, fun _ => rfl, fun _ => rfl⟩
  · exact ⟨rfl, rfl, id, rfl, rfl, rfl, rfl, rfl, rfl, rfl, fun _ => rfl, fun _ => rfl, fun _ => rfl⟩
  · exact ⟨rfl, rfl, id, rfl, rfl, rfl, rfl, rfl, rfl, rfl, fun _ => rfl, fun _ => rfl, fun _ => rfl⟩
  · exact ⟨rfl, rfl, id, rfl, rfl, rfl, rfl, rfl, rfl, rfl, fun _ => rfl, fun _ => rfl, fun _ => rfl⟩

theorem Screen.tracked_describe (x : Screen) (d : Descriptor) : x.Tracked (x.describe d) :=
  ⟨rfl, rfl, id, rfl, rfl, rfl, rfl, rfl, rfl, rfl, fun _ => rfl, fun _ => rfl, fun _ => rfl⟩

theorem State.absentScreen_keeps (h : KeepsTracker P) (hs : P s) : P (s.absentScreen i) :=
  State.trackScreen_keeps h hs (Screen.tracked_absentUpdate _)

theorem State.absentPeriod_keeps (h : KeepsTracker P) (hs : P s) : P s.absentPeriod :=
  State.forScreens_keeps (fun _ _ hu => State.absentScreen_keeps h hu) hs

theorem State.describeScreen_keeps (h : KeepsTracker P) {l : List Byte} (hs : P s) : P (s.describeScreen l i) := by
  unfold State.describeScreen
  split
  · exact State.trackScreen_keeps h hs (Screen.tracked_describe _ _)
  · exact State.absentScreen_keeps h hs

theorem State.chainFeed_keeps (h : KeepsScreens P) (hs : P s) : P (s.chainFeed i k) := by
  unfold State.chainFeed
  exact State.onFeed_keeps h hs

theorem State.handAlarms_keeps (h : KeepsScreens P) (hs : P s) : P (s.handAlarms i) := State.onScreen_keeps h hs

/-! ## Alarm sources and the alarm queue -/

theorem State.setSource_keeps (h : KeepsAlarms P) {id : SourceId} {x : Source} (hx : (s.source id).Sound x) (hs : P s) :
    P (s.setSource id x) := h.source _ _ _ hx hs

/-- An evaluation step does not break R99. -/
theorem Source.sound_evaluate (x : Source) (a b : Nat) (raw : Option Bool) : x.Sound (x.evaluate a b raw).1 := by
  refine ⟨fun hx => ?_, ?_⟩
  rotate_left
  · unfold Source.evaluate
    cases raw with
    | none => rfl
    | some r => cases r <;> cases x.state <;> dsimp only <;> (try split) <;> rfl
  obtain ⟨st, ct, la, un, uc⟩ := x
  unfold Source.evaluate
  cases raw with
  | none => exact hx
  | some r =>
    cases r <;> cases st <;> dsimp only <;> (try split) <;> intro hu <;>
      first | exact hx rfl | rfl | (simp [Source.isUp] at hu)

theorem State.takeReport_keeps (h : KeepsAlarms P) {id : SourceId} {b : Bool} {q : Half} {v : Option Nat} (hs : P s) :
    P (s.takeReport id b q v) := by
  unfold State.takeReport
  split
  · refine h.alarmUpdate _ _ ?_ hs
    rw [List.map_map]
    exact List.map_congr_left fun r _ => by dsimp only [Function.comp]; split <;> rfl
  · rename_i hq
    rw [Bool.not_eq_true] at hq
    split
    · rename_i hc; exact h.alarmAdd _ _ hq hc.1 hc.2 hs
    · exact h.defer _ _ _ hq hs

theorem State.report_keeps (h : KeepsAlarms P) {id : SourceId} {b : Bool} {q : Half} (hs : P s) :
    P (s.report id b q) := by
  unfold State.report
  split
  · exact State.takeReport_keeps h hs
  · exact hs

theorem State.reportMove_keeps (h : KeepsAlarms P) {id : SourceId} {b : Option Bool} {q : Half} (hs : P s) :
    P (s.reportMove id b q) := by
  unfold State.reportMove
  split
  · exact State.report_keeps h hs
  · exact hs

theorem State.protectiveAction_keeps (h : KeepsScreens P) {id : SourceId} {st : SourceState} {b : Option Bool}
    (hs : P s) : P (s.protectiveAction id st b) := by
  unfold State.protectiveAction
  split
  · split
    · exact State.onFeed_keeps h hs
    · exact hs
  · split
    · exact State.setFolded_keeps h hs
    · exact hs
  · exact hs

theorem State.stepSource_keeps (h : KeepsAlarms P) {id : SourceId} {b : Option Bool} {q : Half} (hs : P s) :
    P (s.stepSource id b q) :=
  State.protectiveAction_keeps h.toKeepsScreens (State.reportMove_keeps h
    (State.setSource_keeps h (Source.sound_evaluate _ _ _ _) hs))

theorem State.cueFails_keeps (h : KeepsAlarms P) (hs : P s) : P (s.cueFails i) := by
  unfold State.cueFails
  split
  · exact hs
  · exact State.report_keeps h (State.setSource_keeps h ⟨fun _ _ => rfl, rfl⟩ hs)

theorem State.forceClear_keeps (h : KeepsAlarms P) {id : SourceId} (hs : P s) : P (s.forceClear id) := by
  unfold State.forceClear
  dsimp only
  split
  · exact State.setSource_keeps h ⟨fun _ hu => (nomatch hu), rfl⟩ (State.report_keeps h hs)
  · exact State.setSource_keeps h ⟨fun _ hu => (nomatch hu), rfl⟩ hs

theorem State.swapSources_keeps (h : KeepsAlarms P) (hs : P s) : P (s.swapSources i) :=
  foldl_keeps _ (fun _ _ hu => State.forceClear_keeps h hu) _ _ hs

theorem State.source_setSource_same (s : State) (id : SourceId) (x : Source) : (s.setSource id x).source id = x := by
  cases id <;> simp [State.setSource, State.source]

theorem State.restartSource_keeps (h : KeepsAlarms P) {id : SourceId} (hs : P s) : P (s.restartSource id) := by
  unfold State.restartSource
  refine State.setSource_keeps h ⟨fun _ hu => ?_, rfl⟩ (State.forceClear_keeps h hs)
  have : (((s.forceClear id).source id).state) = .clear := by
    unfold State.forceClear
    dsimp only
    rw [State.source_setSource_same]
  rw [Source.isUp] at hu
  simp [this] at hu

theorem State.restartSources_keeps (h : KeepsAlarms P) (hs : P s) : P (s.restartSources i) :=
  foldl_keeps _ (fun _ _ hu => State.restartSource_keeps h hu) _ _ hs

theorem State.unlatch_keeps (h : KeepsAlarms P) {id : SourceId} (hs : P s) : P (s.unlatch id) := by
  unfold State.unlatch
  split
  · exact hs
  · rename_i hn
    exact State.setSource_keeps h ⟨fun _ hu => absurd hu hn, rfl⟩ hs

theorem State.acknowledgeScreen_keeps (h : KeepsAlarms P) (hs : P s) : P (s.acknowledgeScreen i) := by
  unfold State.acknowledgeScreen
  refine foldl_keeps _ (fun _ _ hu => State.unlatch_keeps h hu) _ _ ?_
  split
  · exact State.forceClear_keeps h hs
  · exact hs

theorem State.acknowledgeDevice_keeps (h : KeepsAlarms P) (hs : P s) : P s.acknowledgeDevice :=
  foldl_keeps _ (fun _ _ hu => State.unlatch_keeps h hu) _ _ hs

theorem State.feedPeriod_keeps (h : KeepsAlarms P) (hs : P s) : P (s.feedPeriod i k) := by
  unfold State.feedPeriod State.evaluateFeed
  exact State.stepSource_keeps h (State.stepSource_keeps h (State.chainFeed_keeps h.toKeepsScreens hs))

theorem State.stepScreenSources_keeps (h : KeepsAlarms P) (hs : P s) : P (s.stepScreenSources i) := by
  unfold State.stepScreenSources
  exact State.stepSource_keeps h (State.stepSource_keeps h (State.stepSource_keeps h hs))

theorem State.stepDeviceSources_keeps (h : KeepsAlarms P) (hs : P s) : P s.stepDeviceSources :=
  State.stepSource_keeps h (State.stepSource_keeps h hs)

theorem State.senseReport_keeps (h : KeepsAlarms P) {q : Half} {c : Nat} {b : Bool} (hs : P s) :
    P (s.senseReport q i k c b) := by
  unfold State.senseReport
  exact State.stepSource_keeps h (State.onFeed_keeps h.toKeepsScreens hs)

theorem State.senseReports_keeps (h : KeepsAlarms P) {l : List Byte} (hs : P s) : P (s.senseReports l) :=
  State.forFeeds_keeps (fun _ _ _ hu => State.senseReport_keeps h hu) hs

/-! ## Lines -/

theorem State.setLine_keeps (h : KeepsLines P) {l : Line} (hs : P s) : P (s.setLine n l) := h.lines _ _ hs

theorem State.refreshLine_keeps (h : KeepsLines P) (hs : P s) : P (s.refreshLine n) := h.lines _ _ hs

theorem State.refreshLines_keeps (h : KeepsLines P) (hs : P s) : P s.refreshLines :=
  State.forLines_keeps (fun _ _ hu => State.refreshLine_keeps h hu) hs

theorem State.driveLine_keeps (h : KeepsLines P) {b : Bool} {d : Nat} (hs : P s) : P (s.driveLine n b d) :=
  State.refreshLine_keeps h (State.setLine_keeps h hs)

theorem State.pulseStep_keeps (h : KeepsLines P) (hs : P s) : P (s.pulseStep n) := by
  unfold State.pulseStep
  dsimp only
  split
  · exact hs
  · split
    · exact State.refreshLine_keeps h (State.setLine_keeps h hs)
    · exact State.setLine_keeps h hs

theorem State.stretchStep_keeps (h : KeepsLines P) (hs : P s) : P (s.stretchStep n) := by
  unfold State.stretchStep
  dsimp only
  split
  · exact hs
  · split <;> exact State.setLine_keeps h hs

theorem State.lineBoundary_keeps (h : KeepsLines P) (hs : P s) : P (s.lineBoundary n) :=
  State.setLine_keeps h (State.stretchStep_keeps h (State.pulseStep_keeps h hs))

theorem State.configureLine_keeps (h : KeepsLines P) {l : Line} (hs : P s) : P (s.configureLine n l) :=
  State.setLine_keeps h hs

theorem State.linesOff_keeps (h : KeepsLines P) (hs : P s) : P (s.linesOff i) := by
  refine State.forLines_keeps (fun n u hu => ?_) hs
  split
  · exact State.driveLine_keeps h hu
  · exact hu

/-! ## The store port, preset operations -/

theorem State.onSlot_keeps (h : KeepsGrant P) {id : SlotId} {f : Slot → Slot} (hs : P s) : P (s.onSlot id f) :=
  h.slots _ _ hs

theorem State.grantEngine_keeps (h : KeepsGrant P) {w : EngineWork} (hs : P s) : P (s.grantEngine w) := by
  unfold State.grantEngine
  dsimp only
  have h1 := h.portTo s .engine 0 (by rintro (e | e) <;> cases e) hs
  split
  · exact State.onSlot_keeps h h1
  · exact h1

theorem State.grantCommit_keeps (h : KeepsGrant P) (hw : s.commit.state = .waiting) (hs : P s) : P s.grantCommit := by
  unfold State.grantCommit
  dsimp only
  split
  · have h1 := h.commitUnit s .commitWrite { s.commit with state := .writing } hw (Or.inl ⟨rfl, rfl⟩) hs
    split
    · exact State.onSlot_keeps h h1
    · exact h1
  · exact h.commitUnit s .commitVerify { s.commit with state := .verifying } hw (Or.inr ⟨rfl, rfl⟩) hs

theorem State.grant_keeps (h : KeepsGrant P) (hs : P s) : P s.grant := by
  unfold State.grant
  split
  · exact hs
  · split
    · exact h.portTo _ _ _ (by rintro (e | e) <;> cases e) hs
    · split
      · exact h.portTo _ _ _ (by rintro (e | e) <;> cases e) (State.onScreen_keeps h.toKeepsScreens hs)
      · split
        · exact h.portRefreshes _ _ _ hs
        · split
          · exact State.grantEngine_keeps h hs
          · split
            · exact State.grantCommit_keeps h ‹_› hs
            · exact hs

theorem State.freePort_keeps (h : KeepsGrant P) (hs : P s) : P s.freePort := h.portFree _ hs

theorem State.beginOp_keeps (h : KeepsGrant P) {r : PresetRef} (hs : P s) : P (s.beginOp i r) := by
  unfold State.beginOp
  split
  · exact State.grant_keeps h (State.onScreen_keeps h.toKeepsScreens hs)
  · exact State.enterFadeOut_keeps h.toKeepsScreens (State.onScreen_keeps h.toKeepsScreens hs)

theorem State.placeOp_keeps (h : KeepsGrant P) {r : PresetRef} (hs : P s) : P (s.placeOp i r) := by
  unfold State.placeOp
  split
  · exact State.beginOp_keeps h hs
  · exact State.onScreen_keeps h.toKeepsScreens hs

theorem State.endSwap_keeps (h : KeepsGrant P) (hs : P s) : P (s.endSwap i) := by
  unfold State.endSwap
  dsimp only
  split
  · exact State.beginOp_keeps h (State.recomputeMute_keeps h.toKeepsScreens (State.onScreen_keeps h.toKeepsScreens hs))
  · exact State.recomputeMute_keeps h.toKeepsScreens (State.onScreen_keeps h.toKeepsScreens hs)

theorem State.takeSwapEnd_keeps (h : KeepsGrant P) (hs : P s) : P (s.takeSwapEnd i) := by
  unfold State.takeSwapEnd
  split
  · exact State.endSwap_keeps h hs
  · exact hs

theorem State.fadeInStep_keeps (h : KeepsGrant P) (hs : P s) : P (s.fadeInStep i) := by
  unfold State.fadeInStep
  split
  · exact State.takeSwapEnd_keeps h (State.onScreen_keeps h.toKeepsScreens hs)
  · exact hs

theorem State.screenBoundary_keeps (h : KeepsGrant P) (hs : P s) : P (s.screenBoundary i) := by
  refine State.fadeInStep_keeps h (State.onScreen_keeps h.toKeepsScreens hs fun x => ?_)
  unfold Screen.indicate
  split <;> exact ⟨rfl, rfl, rfl, rfl, rfl, rfl, rfl, rfl, rfl, rfl, rfl, rfl, fun _ => rfl, fun _ => rfl, fun _ => rfl⟩

theorem State.ageUnit_keeps (h : KeepsGrant P) (hs : P s) : P s.ageUnit := h.portAge _ hs

theorem Screen.quiet_install (x : Screen) (b : LoadBuffer) : x.Quiet (x.install b) := by
  have h : x.Quiet (x.mapFeeds fun _ y => y.replaced) :=
    Screen.quiet_mapFeeds (fun _ _ => rfl) (fun _ _ => rfl) (fun _ _ => rfl)
  unfold Screen.install
  generalize (x.mapFeeds fun _ y => y.replaced) = z at h ⊢
  exact ⟨h.tracker, h.cues, h.counter, h.tracking, h.enginePos, h.pointer, h.showLock, h.track, h.dropout, h.preset,
    h.cue, h.sent, h.overload, h.silent, h.mismatch⟩

theorem State.replaceLive_keeps (h : KeepsAlarms P) {b : LoadBuffer} (hs : P s) : P (s.replaceLive i b) :=
  State.rebuild_keeps h.toKeepsScreens (State.onScreen_keeps h.toKeepsScreens (State.swapSources_keeps h hs)
    fun x => Screen.quiet_install x b)

theorem State.swapLive_keeps (h : KeepsAlarms P) (hs : P s) : P (s.swapLive i) := by
  unfold State.swapLive
  split
  · exact hs
  · exact State.recomputeMute_keeps h.toKeepsScreens
      (State.onScreen_keeps h.toKeepsScreens (State.replaceLive_keeps h hs))

theorem State.takeMuteZero_keeps (h : KeepsAlarms P) (hs : P s) : P (s.takeMuteZero i) := by
  unfold State.takeMuteZero
  split
  · exact State.swapLive_keeps h hs
  · exact hs

/-! ## Cues -/

theorem State.fireLine_keeps (h : KeepsCues P) {b : Bool} {d : Nat} (hs : P s) : P (s.fireLine i n b d) := by
  unfold State.fireLine
  split
  · exact State.driveLine_keeps h.toKeepsLines hs
  · exact State.cueFails_keeps h.toKeepsAlarms hs

theorem State.firePreset_keeps (h : KeepsCues P) {m : Fin 4} (hs : P s) : P (s.firePreset i m) := by
  unfold State.firePreset
  split
  · exact State.placeOp_keeps h.toKeepsGrant hs
  · exact State.cueFails_keeps h.toKeepsAlarms hs

theorem State.fireFormat_keeps (h : KeepsCues P) {c : Option (Fin 16)} (hs : P s) : P (s.fireFormat i c) := by
  unfold State.fireFormat
  split
  · exact State.setOverride_keeps h.toKeepsScreens hs
  · split
    · exact State.setOverride_keeps h.toKeepsScreens hs
    · exact State.cueFails_keeps h.toKeepsAlarms hs

theorem State.fireMark_keeps (h : KeepsCues P) {a b : Nat} {p q : Position} (hs : P s) : P (s.fireMark i a b p q) := by
  unfold State.fireMark
  split
  · exact h.markAdd _ _ ‹_› hs
  · exact State.cueFails_keeps h.toKeepsAlarms hs

theorem State.fireCue_keeps (h : KeepsCues P) {p : Position} {c : Cue} (hs : P s) : P (s.fireCue i p c) := by
  unfold State.fireCue
  split
  · exact State.fireLine_keeps h hs
  · exact State.fireLine_keeps h hs
  · exact State.loadMaster_keeps h.toKeepsScreens hs
  · exact State.firePreset_keeps h hs
  · exact State.fireFormat_keeps h hs
  · exact State.setMuted_keeps h.toKeepsScreens hs
  · exact State.setMuted_keeps h.toKeepsScreens hs
  · exact State.fireMark_keeps h hs

theorem State.chaseCue_keeps (h : KeepsCues P) {p : Position} {b : Nat} {c : Cue} (hs : P s) :
    P (s.chaseCue i p b c) := by
  unfold State.chaseCue
  split
  · exact State.loadMaster_keeps h.toKeepsScreens hs
  · exact State.fireCue_keeps h hs

theorem State.advance_keeps (h : KeepsCues P) {e : PositionEvent} (hs : P s) : P (s.advance i e) :=
  h.arrive _ _ _ (foldl_keeps _ (fun _ _ hu => State.fireCue_keeps h hu) _ _ hs)

theorem State.land_keeps (h : KeepsCues P) {e : PositionEvent} (hs : P s) : P (s.land i e) := by
  unfold State.land
  exact h.arrive _ _ _
    (foldl_keeps _ (fun _ _ hu => State.fireCue_keeps h hu) _ _
      (foldl_keeps _ (fun _ _ hu => State.chaseCue_keeps h hu) _ _ hs))

theorem State.takePosition_keeps (h : KeepsCues P) {e : PositionEvent} (hs : P s) : P (s.takePosition i e) := by
  unfold State.takePosition
  split
  · exact State.advance_keeps h hs
  · exact State.land_keeps h hs

theorem State.takeEvent_keeps (h : KeepsCues P) {e : Option PositionEvent} (hs : P s) : P (s.takeEvent i e) := by
  unfold State.takeEvent
  split
  · exact State.takePosition_keeps h hs
  · exact hs

end Sys2Proof.Machine
end

