-- ==== Sys2Proof/Laws/KeepsStep.lean ====
section
/-! SUPPORT. What the store, the requests, the lane, a block period and a whole step can do, in the elementary changes of
Laws/Keeps.lean. -/

namespace Sys2Proof.Machine

variable {P Q : State → Prop}

/-! ## Elementary changes made together -/

theorem KeepsStore.scanBoth (h : KeepsStore P) (s : State) (x : Option Scan) (y : List Byte) (hs : P s) :
    P { s with scan := x, scanBuf := y } := h.scanBuf _ y (h.scan s x hs)

/-- Closed under what the end of a commit does to its slot. -/
structure KeepsSlots (P : State → Prop) : Prop extends KeepsScreens P where
  slots : ∀ s x, P s → P { s with slots := x }
  refreshes : ∀ s x, P s → P { s with refreshes := x }
  cache : ∀ s x, P s → P { s with cache := x }

theorem KeepsStore.toKeepsSlots (h : KeepsStore P) : KeepsSlots P := ⟨h.toKeepsScreens, h.slots, h.refreshes, h.cache⟩

theorem KeepsStore.dropBoth (h : KeepsStore P) (s : State) (x : List (Fin 15)) (y : Bool) (hs : P s) :
    P { s with refreshes := x, dropRefresh := y } := h.dropRefresh _ y (h.refreshes s x hs)

theorem KeepsStore.freeHeld (h : KeepsStore P) (s : State) (x : Option Message) (y : List Reply)
    (hl : y.length = s.replies.length) (hs : P s) : P { s with held := x, replies := y } :=
  h.replyChange { s with held := x } y hl (h.held s x hs)

theorem KeepsStore.holdBoth (h : KeepsStore P) (s : State) (x : Option Message) (y : Option EngineWork) (hs : P s) :
    P { s with held := x, engineWork := y } := h.engineWork _ y (h.held s x hs)

variable {s : State} {i : Fin 12} {k : Fin 16} {n : Fin 24} {id : SlotId} {u : Upset}

/-! ## The table store -/

theorem KeepsSlots.onSlot (h : KeepsSlots P) {f : Slot → Slot} (hs : P s) : P (s.onSlot id f) := h.slots _ _ hs

theorem State.clearSlot_keeps (h : KeepsGrant P) {x : SlotState} (hs : P s) : P (s.clearSlot id x) :=
  State.onSlot_keeps h hs

theorem State.setMark_keeps (h : KeepsGrant P) {x : Mark} (hs : P s) : P (s.setMark id x) := State.onSlot_keeps h hs

theorem State.validateSlot_keeps (h : KeepsGrant P) {l : List Byte} (hs : P s) : P (s.validateSlot id l) :=
  State.onSlot_keeps h hs

theorem State.setCache_keeps (h : KeepsSlots P) {c : Fin 16} {e : Option Format} (hs : P s) : P (s.setCache c e) :=
  State.rebuildAll_keeps h.toKeepsScreens (h.cache s _ hs)

theorem State.dropCache_keeps (h : KeepsSlots P) (hs : P s) : P (s.dropCache id) := by
  cases id with
  | room => exact hs
  | format => exact State.setCache_keeps h hs

theorem State.queueRefresh_keeps (h : KeepsSlots P) {f : Fin 15} (hs : P s) : P (s.queueRefresh f) := by
  unfold State.queueRefresh
  split
  · exact hs
  · exact h.refreshes _ _ hs

theorem State.markStale_keeps (h : KeepsScreens P) (hs : P s) : P (s.markStale id) := by
  unfold State.markStale
  split
  · refine State.onScreen_keeps h hs fun x => ?_
    split
    · exact ⟨rfl, rfl, rfl, rfl, rfl, rfl, rfl, rfl, rfl, rfl, rfl, rfl, fun _ => rfl, fun _ => rfl, fun _ => rfl⟩
    · exact Screen.Quiet.refl x
  · exact hs

theorem State.commitSlot_keeps (h : KeepsSlots P) {r : CommitResult} (hs : P s) : P (s.commitSlot r) := by
  unfold State.commitSlot
  dsimp only
  split
  · have h1 : P (((s.setMark s.commit.target .closed).validateSlot s.commit.target
        (s.stagedImage s.commit.target)).markStale s.commit.target) :=
      State.markStale_keeps h.toKeepsScreens (h.onSlot (h.onSlot hs))
    split
    · exact h1
    · exact State.queueRefresh_keeps h h1
  · split
    · exact h.onSlot hs
    · exact State.dropCache_keeps h (h.onSlot hs)
  · exact State.dropCache_keeps h (h.onSlot hs)

/-- What the end of a commit does to its slot leaves the commit record. -/
theorem State.commitSlot_commit (s : State) (r : CommitResult) : (s.commitSlot r).commit = s.commit :=
  State.commitSlot_keeps (P := fun u => u.commit = s.commit)
    { screen := fun _ _ _ _ h => h, slots := fun _ _ h => h, refreshes := fun _ _ h => h, cache := fun _ _ h => h } rfl

/-- A commit ends while it is WAITING, its last unit's port given back. -/
theorem State.endCommit_keeps (h : KeepsStore P) {r : CommitResult} (hw : s.commit.state = .waiting) (hs : P s) :
    P (s.endCommit r) := by
  unfold State.endCommit
  exact h.commitEnds (s.commitSlot r) { s.commit with state := .idle, abandon := false, last := r } ⟨s.commit.target, r⟩
    (by rw [State.commitSlot_commit]; exact hw) rfl (State.commitSlot_keeps h.toKeepsSlots hs)

theorem State.writeArray_port (s : State) (a : Nat) (l : List Byte) : (s.writeArray a l).port = s.port := rfl

theorem State.endPageWrite_keeps (h : KeepsStore P) {p : PortUnit} (hp : s.port = some p) (hw : p.work.OfCommit)
    (hs : P s) : P s.endPageWrite := by
  unfold State.endPageWrite
  dsimp only
  have hp' : (s.writeArray (s.commit.target.base + Config.pageSize * s.commit.next)
      (s.stagedPage s.commit.target s.commit.next)).port = some p := (State.writeArray_port _ _ _).trans hp
  have h0 := h.writeArray s (s.commit.target.base + Config.pageSize * s.commit.next)
    (s.stagedPage s.commit.target s.commit.next) hs
  revert hp' h0
  generalize s.writeArray (s.commit.target.base + Config.pageSize * s.commit.next)
    (s.stagedPage s.commit.target s.commit.next) = v
  intro hp' h0
  generalize (if s.commit.written + 1 < s.commit.target.pages then s.commit.next + 1 else 0) = q
  generalize s.commit.written + 1 = w
  have h1 := h.commitWaits v { s.commit with state := .waiting, written := w, next := q } p hp' hw rfl h0
  split
  · exact State.grant_keeps h.toKeepsGrant (State.endCommit_keeps h rfl h1)
  · exact State.grant_keeps h.toKeepsGrant h1

theorem State.endPageVerify_keeps (h : KeepsStore P) {p : PortUnit} (hp : s.port = some p) (hw : p.work.OfCommit)
    (hs : P s) : P (s.endPageVerify u) := by
  unfold State.endPageVerify
  dsimp only
  have h1 := h.commitWaits s { s.commit with state := .waiting } p hp hw rfl hs
  split
  · exact State.grant_keeps h.toKeepsGrant (State.endCommit_keeps h rfl h1)
  · split
    · exact State.grant_keeps h.toKeepsGrant (State.endCommit_keeps h rfl h1)
    · split
      · exact State.grant_keeps h.toKeepsGrant
          (h.commitWaits s { s.commit with state := .waiting, next := s.commit.next + 1 } p hp hw rfl hs)
      · split <;> exact State.grant_keeps h.toKeepsGrant (State.endCommit_keeps h rfl h1)

theorem State.endRefresh_keeps (h : KeepsStore P) {f : Fin 15} (hs : P s) : P (s.endRefresh f u) := by
  unfold State.endRefresh
  dsimp only
  have h1 := State.freePort_keeps h.toKeepsGrant hs
  split
  · exact State.grant_keeps h.toKeepsGrant (h.dropRefresh _ _ h1)
  · split <;> exact State.grant_keeps h.toKeepsGrant (State.setCache_keeps h.toKeepsSlots h1)

theorem State.endHeld_keeps (h : KeepsStore P) (hs : P s) : P s.endHeld := by
  unfold State.endHeld
  exact h.freeHeld _ _ _ (by simp) hs

theorem State.endFetch_keeps (h : KeepsStore P) {o : Nat} (hs : P s) : P (s.endFetch id o u) := by
  unfold State.endFetch
  exact State.grant_keeps h.toKeepsGrant (State.endHeld_keeps h
    (h.engineWork _ none (State.freePort_keeps h.toKeepsGrant (h.writeStaging _ _ _ hs))))

theorem State.endErasePage_keeps (h : KeepsStore P) {o : Nat} (hs : P s) : P (s.endErasePage id o) := by
  unfold State.endErasePage
  dsimp only
  have h1 := State.freePort_keeps h.toKeepsGrant
    (h.writeArray s (id.base + Config.pageSize * o) (List.replicate Config.pageSize 255) hs)
  split
  · exact State.grant_keeps h.toKeepsGrant (h.engineWork _ _ h1)
  · exact State.grant_keeps h.toKeepsGrant (State.setMark_keeps h.toKeepsGrant
      (State.endHeld_keeps h (h.engineWork _ none h1)))

theorem State.beginErase_keeps (h : KeepsStore P) (hs : P s) : P (s.beginErase id) := by
  unfold State.beginErase
  dsimp only
  have h1 : P ((s.clearSlot id .empty).dropCache id) :=
    State.dropCache_keeps h.toKeepsSlots (State.clearSlot_keeps h.toKeepsGrant hs)
  split
  · exact h1
  · exact h.dropBoth _ _ _ h1

theorem State.becomeRunning_keeps (h : KeepsStore P) (hs : P s) : P s.becomeRunning :=
  State.forScreens_keeps (fun _ _ hu => State.recomputeMute_keeps h.toKeepsScreens hu) (h.device s .running hs)

theorem State.bootDone_keeps (h : KeepsStore P) (hs : P s) : P s.bootDone := by
  unfold State.bootDone
  split
  · exact hs
  · exact State.becomeRunning_keeps h hs

theorem State.placeBootLoads_keeps (h : KeepsScreens P) (hs : P s) : P s.placeBootLoads := by
  refine State.forScreens_keeps (fun i v hv => ?_) hs
  split
  · exact State.onScreen_keeps h hv
  · exact hv

theorem State.classify_keeps (h : KeepsStore P) {l : List Byte} (hs : P s) : P (s.classify id l) := by
  unfold State.classify
  split
  · exact State.clearSlot_keeps h.toKeepsGrant hs
  · exact State.clearSlot_keeps h.toKeepsGrant hs
  · split
    · split
      · exact State.validateSlot_keeps h.toKeepsGrant hs
      · exact State.setCache_keeps h.toKeepsSlots (State.validateSlot_keeps h.toKeepsGrant hs)
    · exact State.clearSlot_keeps h.toKeepsGrant hs

theorem State.scanNext_keeps (h : KeepsStore P) {p : Fin 63} (hs : P s) : P (s.scanNext p) := by
  unfold State.scanNext
  split
  · exact State.grant_keeps h.toKeepsGrant (h.scanBoth _ _ _ hs)
  · exact State.grant_keeps h.toKeepsGrant (State.bootDone_keeps h
      (State.placeBootLoads_keeps h.toKeepsScreens (h.scanBoth _ _ _ hs)))

theorem State.endScanPage_keeps (h : KeepsStore P) {c : Scan} (hs : P s) : P (s.endScanPage c u) := by
  unfold State.endScanPage
  dsimp only
  have h1 := State.freePort_keeps h.toKeepsGrant hs
  split
  · exact State.grant_keeps h.toKeepsGrant (h.scanBoth _ _ _ h1)
  · exact State.scanNext_keeps h (State.classify_keeps h h1)

theorem State.installBoot_keeps (h : KeepsStore P) {b : LoadBuffer} (hs : P s) : P (s.installBoot i b) :=
  State.bootDone_keeps h (State.onScreen_keeps h.toKeepsScreens (State.replaceLive_keeps h.toKeepsAlarms hs))

theorem State.endLoad_keeps (h : KeepsStore P) (hs : P s) : P (s.endLoad i u) := by
  unfold State.endLoad
  have h1 := State.freePort_keeps h.toKeepsGrant hs
  split
  · dsimp only
    split
    · exact State.grant_keeps h.toKeepsGrant (State.installBoot_keeps h h1)
    · exact State.grant_keeps h.toKeepsGrant (State.enterFadeOut_keeps h.toKeepsScreens
        (State.onScreen_keeps h.toKeepsScreens h1))
  · exact State.grant_keeps h.toKeepsGrant h1

/-- The end of whatever unit holds the port. -/
theorem State.endUnit_keeps (h : KeepsStore P) (hs : P s) : P (s.endUnit u) := by
  unfold State.endUnit
  have h1 : P s.freePort.grant := State.grant_keeps h.toKeepsGrant (State.freePort_keeps h.toKeepsGrant hs)
  split
  · exact hs
  · split
    · split
      · exact State.endScanPage_keeps h hs
      · exact h1
    · exact State.endLoad_keeps h hs
    · exact State.endRefresh_keeps h hs
    · split
      · exact State.endFetch_keeps h hs
      · exact State.endErasePage_keeps h hs
      · exact h1
    · exact State.endPageWrite_keeps h ‹_› (Or.inl ‹_›) hs
    · exact State.endPageVerify_keeps h ‹_› (Or.inr ‹_›) hs

theorem State.endUnitOf_keeps (h : KeepsStore P) {p : PortWork → Bool} (hs : P s) : P (s.endUnitOf p u) := by
  unfold State.endUnitOf
  split
  · exact State.endUnit_keeps h hs
  · exact hs

theorem State.overdueUnit_keeps (h : KeepsStore P) (hs : P s) : P s.overdueUnit := by
  unfold State.overdueUnit
  split
  · split
    · exact State.endUnit_keeps h hs
    · exact hs
  · exact hs

/-! ## Requests: what happens before the one reply keeps `P`, the reply leads from `P` to `Q`, what follows it keeps `Q` -/

/-- The adding of a reply leads from P to Q. -/
abbrev Replies (P Q : State → Prop) : Prop := ∀ s r, P s → Q { s with replies := s.replies ++ [r] }

variable {m : Message} {v : Verdict} {b : Bool} {l : List Byte}

theorem State.answer_keeps (hr : Replies P Q) (hs : P s) : Q (s.answer m v b l) := hr _ _ hs

theorem State.reply_keeps (hr : Replies P Q) (hs : P s) : Q (s.reply m v l) := hr _ _ hs

theorem State.refuse_keeps (hr : Replies P Q) (hs : P s) : Q (s.refuse m v) := hr _ _ hs

theorem State.hold_keeps (hq : KeepsStore Q) (hr : Replies P Q) {w : EngineWork} (hs : P s) : Q (s.hold m w) := by
  unfold State.hold
  exact State.grant_keeps hq.toKeepsGrant (hq.holdBoth _ _ _ (hr _ _ hs))

theorem State.restart_keeps (h : KeepsRequests P) (hs : P s) : P (s.restart i) := by
  unfold State.restart
  have hc := h.toKeepsScreens
  exact State.linesOff_keeps h.toKeepsLines (State.restartSources_keeps h.toKeepsAlarms
    (State.emptyFoldSet_keeps hc (State.zeroProtect_keeps hc (State.takeOverride_keeps hc
      (State.setMuted_keeps hc (State.loadMaster_keeps hc (State.placeOp_keeps h.toKeepsGrant
        (State.onScreen_keeps hc (h.restartCues _ _ hs)))))))))

theorem State.beginCommit_keeps (h : KeepsRequests P) (hi : s.commit.state = .idle)
    (hn : s.storeNotices.length < Config.noticePlaces) (hs : P s) : P (s.beginCommit id) :=
  h.commitBegin _ _ hi hn rfl (State.onSlot_keeps h.toKeepsGrant hs)

/-- The tags cleared, the room for a new cue is what it was. -/
theorem State.insertable_clearTags {c : Cue} (hid : ¬ ((s.screen i).cues.any fun d => decide (d.id = c.id)) = true)
    (hroom : ¬ (s.freeCues = 0 ∨ Config.listCap ≤ (s.screen i).cues.length ∨
      Config.counterEnd ≤ (s.screen i).counter)) : (s.onScreen i Screen.clearTags).Insertable i c := by
  have hlen : ∀ j, ((s.onScreen i Screen.clearTags).screen j).cues.length = (s.screen j).cues.length := by
    intro j
    by_cases hj : j = i
    · subst hj; simp [Screen.clearTags]
    · rw [State.screen_onScreen_other _ _ _ _ hj]
  refine ⟨?_, ?_, ?_, ?_⟩
  · intro d hd
    simp only [State.screen_onScreen_same, Screen.clearTags, List.mem_map] at hd
    obtain ⟨e, he, rfl⟩ := hd
    intro hc
    exact hid (List.any_eq_true.mpr ⟨e, he, by simpa using hc⟩)
  · unfold State.freeCues
    simp only [hlen]
    exact fun h => hroom (Or.inl h)
  · rw [hlen]; omega
  · simp only [State.screen_onScreen_same, Screen.clearTags]; omega

/-- A request carried out. -/
theorem State.carryOut_keeps (h : KeepsRequests P) (hq : KeepsStore Q) (hr : Replies P Q) {k : RequestKind}
    (hs : P s) : Q (s.carryOut k m) := by
  have hc := h.toKeepsScreens
  have hf : ∀ v, Q (s.refuse m v) := fun v => hr _ _ hs
  cases k with
  | status => exact hr _ _ (h.lockLost s false hs)
  | slotInfo =>
    show Q (s.takeSlotInfo m)
    unfold State.takeSlotInfo
    split
    · exact hf _
    · exact hr _ _ hs
  | stageClear =>
    show Q (s.takeStageClear m)
    unfold State.takeStageClear
    split
    · exact hf _
    · split
      · exact hf _
      · exact hr _ _ (h.stageClear s hs)
  | stageWrite =>
    show Q (s.takeStageWrite m)
    unfold State.takeStageWrite
    dsimp only
    split
    · exact hf _
    · split
      · exact hf _
      · split
        · exact hf _
        · exact hr _ _ (h.writeStaging s _ _ hs)
  | stageRead =>
    show Q (s.takeStageRead m)
    unfold State.takeStageRead
    dsimp only
    split
    · exact hf _
    · split
      · exact hf _
      · exact hr _ _ hs
  | stageFetch =>
    show Q (s.takeStageFetch m)
    unfold State.takeStageFetch
    dsimp only
    split
    · exact hf _
    · split
      · exact hf _
      · split
        · exact hf _
        · split
          · exact hf _
          · split
            · exact State.hold_keeps hq hr hs
            · exact hf _
  | commit =>
    show Q (s.takeCommit m)
    unfold State.takeCommit
    split
    · exact hf _
    · split
      · exact hf _
      · split
        · exact hf _
        · rename_i hfree
          rw [Decidable.not_not] at hfree
          split
          · exact hf _
          · split
            · exact hf _
            · split
              · exact hf _
              · exact State.grant_keeps hq.toKeepsGrant (hr _ _ (State.beginCommit_keeps h hfree.1 hfree.2 hs))
  | commitAbandon =>
    show Q (s.takeCommitAbandon m)
    unfold State.takeCommitAbandon
    split
    · exact hf _
    · split
      · exact hf _
      · exact hr _ _ (State.endCommit_keeps h.toKeepsStore ‹_› hs)
      · exact hr _ _ (h.commitNext s _ rfl hs)
  | slotErase =>
    show Q (s.takeSlotErase m)
    unfold State.takeSlotErase
    split
    · exact hf _
    · split
      · exact hf _
      · split
        · exact hf _
        · split
          · exact hf _
          · split
            · exact hr _ _ hs
            · exact State.hold_keeps hq hr (State.beginErase_keeps h.toKeepsStore hs)
  | presetSelect =>
    show Q (s.takePresetSelect m)
    unfold State.takePresetSelect
    dsimp only
    split
    · exact hf _
    · split
      · exact hf _
      · split
        · split
          · exact hf _
          · split
            · exact hr _ _ (State.placeOp_keeps h.toKeepsGrant hs)
            · exact hf _
        · exact hf _
  | formatOverride =>
    show Q (s.takeFormatOverride m)
    unfold State.takeFormatOverride
    split
    · exact hf _
    · split
      · split
        · exact hf _
        · split
          · exact hr _ _ (State.takeOverride_keeps hc hs)
          · split
            · exact hr _ _ (State.takeOverride_keeps hc hs)
            · exact hf _
      · exact hf _
  | screenMute =>
    show Q (s.takeScreenMute m)
    unfold State.takeScreenMute
    split
    · exact hf _
    · split
      · exact hr _ _ (State.setMuted_keeps hc hs)
      · exact hf _
  | masterSet =>
    show Q (s.takeMasterSet m)
    unfold State.takeMasterSet
    split
    · exact hf _
    · split
      · exact hf _
      · exact hr _ _ (State.loadMaster_keeps hc hs)
  | cueInsert =>
    show Q (s.takeCueInsert m)
    unfold State.takeCueInsert
    split
    · exact hf _
    · rename_i i _
      dsimp only
      have h1 : P (s.onScreen i Screen.clearTags) := h.retag _ _ _ (fun _ => rfl) hs
      split
      · exact hr _ _ h1
      · split
        · exact hr _ _ h1
        · rename_i hid
          split
          · exact hr _ _ h1
          · rename_i hroom
            exact hr _ _ (h.insert _ _ _ (State.insertable_clearTags hid hroom) h1)
  | cueDelete =>
    show Q (s.takeCueDelete m)
    unfold State.takeCueDelete
    split
    · exact hf _
    · rename_i i _
      dsimp only
      have h1 : P (s.onScreen i Screen.clearTags) := h.retag _ _ _ (fun _ => rfl) hs
      split
      · exact hr _ _ h1
      · exact hr _ _ (h.remove _ _ _ h1)
  | cueClear =>
    show Q (s.takeCueClear m)
    unfold State.takeCueClear
    split
    · exact hf _
    · exact hr _ _ (h.clear _ _ hs)
  | cueTagRange =>
    show Q (s.takeCueTagRange m)
    unfold State.takeCueTagRange
    split
    · exact hf _
    · dsimp only
      split
      · exact hr _ _ (h.retag _ _ _ (fun _ => rfl) hs)
      · exact hf _
  | cueUntag =>
    show Q (s.takeCueUntag m)
    unfold State.takeCueUntag
    split
    · exact hf _
    · split
      · exact hf _
      · exact hr _ _ (h.retag _ _ _ (fun c => by split <;> rfl) hs)
  | cueDeleteTagged =>
    show Q (s.takeCueDeleteTagged m)
    unfold State.takeCueDeleteTagged
    split
    · exact hf _
    · exact hr _ _ (h.remove _ _ _ hs)
  | cueListRead =>
    show Q (s.takeCueListRead m)
    unfold State.takeCueListRead
    split
    · exact hf _
    · split
      · exact hf _
      · exact hr _ _ hs
  | lineConfig =>
    show Q (s.takeLineConfig m)
    unfold State.takeLineConfig
    split
    · exact hf _
    · exact hr _ _ (State.configureLine_keeps h.toKeepsLines hs)
  | lineDrive =>
    show Q (s.takeLineDrive m)
    unfold State.takeLineDrive
    split
    · exact hf _
    · split
      · split
        · exact hr _ _ (State.driveLine_keeps h.toKeepsLines hs)
        · exact hf _
      · exact hf _
  | meterRead =>
    show Q (s.takeMeterRead m)
    unfold State.takeMeterRead
    split
    · exact hf _
    · exact hr _ _ (State.mapFeeds_keeps hc hs)
  | alarmRead =>
    show Q (s.takeAlarmRead m)
    unfold State.takeAlarmRead
    split
    · exact hr _ _ hs
    · split
      · exact hf _
      · exact hr _ _ hs
  | alarmAcknowledge =>
    show Q (s.takeAlarmAcknowledge m)
    unfold State.takeAlarmAcknowledge
    split
    · exact hf _
    · split
      · exact hr _ _ (State.acknowledgeDevice_keeps h.toKeepsAlarms hs)
      · split
        · exact hf _
        · exact hr _ _ (State.acknowledgeScreen_keeps h.toKeepsAlarms hs)
  | feedRestore =>
    show Q (s.takeFeedRestore m)
    unfold State.takeFeedRestore
    split
    · exact hf _
    · split
      · split
        · exact hr _ _ (State.forceClear_keeps h.toKeepsAlarms (State.setFolded_keeps hc hs))
        · exact hf _
      · exact hf _
  | protectReset =>
    show Q (s.takeProtectReset m)
    unfold State.takeProtectReset
    split
    · exact hf _
    · split
      · exact hf _
      · exact hr _ _ (State.zeroProtect_keeps hc hs)
  | lockSet =>
    show Q (s.takeLockSet m)
    unfold State.takeLockSet
    split
    · exact hf _
    · split
      · exact hf _
      · split
        · exact hf _
        · exact hr _ _ (h.lock _ _ _ hs)
  | lockClear =>
    show Q (s.takeLockClear m)
    unfold State.takeLockClear
    split
    · exact hf _
    · split
      · exact hf _
      · split
        · exact hf _
        · exact hr _ _ (h.lock _ _ _ hs)
  | screenRestart =>
    show Q (s.takeScreenRestart m)
    unfold State.takeScreenRestart
    split
    · exact hf _
    · split
      · exact hf _
      · split
        · exact hf _
        · exact hr _ _ (State.restart_keeps h hs)

/-- The taking of a message: one reply, and whatever its request does. -/
theorem State.takeMessage_keeps (h : KeepsRequests P) (hq : KeepsStore Q) (hr : Replies P Q) (hs : P s) :
    Q (s.takeMessage m) := by
  unfold State.takeMessage
  split
  · exact hr _ _ hs
  · split
    · exact State.carryOut_keeps h hq hr hs
    · exact hr _ _ hs

/-! ## The control lane engine -/

/-- With a place left in the reply queue. -/
abbrev WithRoom (P : State → Prop) (s : State) : Prop := P s ∧ s.replies.length < Config.replyPlaces

theorem KeepsRequests.withRoom (h : KeepsRequests P) : KeepsRequests (WithRoom P) where
  screen := fun s i y hy hs => ⟨h.screen s i y hy hs.1, hs.2⟩
  source := fun s i y hy hs => ⟨h.source s i y hy hs.1, by cases i <;> exact hs.2⟩
  defer := fun s i n hq hs => ⟨h.defer s i n hq hs.1, by cases i <;> exact hs.2⟩
  alarmUpdate := fun s l hl hs => ⟨h.alarmUpdate s l hl hs.1, hs.2⟩
  alarmAdd := fun s r hq hu hl hs => ⟨h.alarmAdd s r hq hu hl hs.1, hs.2⟩
  lines := fun s x hs => ⟨h.lines s x hs.1, hs.2⟩
  slots := fun s x hs => ⟨h.slots s x hs.1, hs.2⟩
  refreshes := fun s x hs => ⟨h.refreshes s x hs.1, hs.2⟩
  portTo := fun s w n hw hs => ⟨h.portTo s w n hw hs.1, hs.2⟩
  portFree := fun s hs => ⟨h.portFree s hs.1, hs.2⟩
  portAge := fun s hs => ⟨h.portAge s hs.1, hs.2⟩
  commitUnit := fun s w c hw hc hs => ⟨h.commitUnit s w c hw hc hs.1, hs.2⟩
  markAdd := fun s n hn hs => ⟨h.markAdd s n hn hs.1, hs.2⟩
  arrive := fun s i p hs => ⟨h.arrive s i p hs.1, hs.2⟩
  cache := fun s x hs => ⟨h.cache s x hs.1, hs.2⟩
  dropRefresh := fun s x hs => ⟨h.dropRefresh s x hs.1, hs.2⟩
  engineWork := fun s x hs => ⟨h.engineWork s x hs.1, hs.2⟩
  scan := fun s x hs => ⟨h.scan s x hs.1, hs.2⟩
  scanBuf := fun s x hs => ⟨h.scanBuf s x hs.1, hs.2⟩
  commitWaits := fun s c p hp hw hc hs => ⟨h.commitWaits s c p hp hw hc hs.1, hs.2⟩
  commitNext := fun s c hc hs => ⟨h.commitNext s c hc hs.1, hs.2⟩
  commitEnds := fun s c n hw hc hs => ⟨h.commitEnds s c n hw hc hs.1, hs.2⟩
  commitBegin := fun s c hi hn hc hs => ⟨h.commitBegin s c hi hn hc hs.1, hs.2⟩
  commitEnded := fun s x hs => ⟨h.commitEnded s x hs.1, hs.2⟩
  device := fun s x hs => ⟨h.device s x hs.1, hs.2⟩
  held := fun s x hs => ⟨h.held s x hs.1, hs.2⟩
  writeStaging := fun s n l hs => ⟨h.writeStaging s n l hs.1, hs.2⟩
  writeArray := fun s n l hs => ⟨h.writeArray s n l hs.1, hs.2⟩
  insert := fun s i c hc hs => ⟨h.insert s i c hc hs.1, hs.2⟩
  remove := fun s i g hs => ⟨h.remove s i g hs.1, hs.2⟩
  clear := fun s i hs => ⟨h.clear s i hs.1, hs.2⟩
  restartCues := fun s i hs => ⟨h.restartCues s i hs.1, hs.2⟩
  retag := fun s i f hf hs => ⟨h.retag s i f hf hs.1, hs.2⟩
  lock := fun s i v hs => ⟨h.lock s i v hs.1, hs.2⟩
  lockLost := fun s x hs => ⟨h.lockLost s x hs.1, hs.2⟩
  stageClear := fun s hs => ⟨h.stageClear s hs.1, hs.2⟩
  replyChange := fun s l hl hs => ⟨h.replyChange s l hl hs.1, by rw [hl]; exact hs.2⟩

theorem State.takeMessage_keeps_room (h : KeepsLane P) (hs : P s) (hn : s.replies.length < Config.replyPlaces) :
    P (s.takeMessage m) :=
  State.takeMessage_keeps (P := WithRoom P) (Q := P) h.toKeepsRequests.withRoom h.toKeepsStore
    (fun u r hu => h.replyAdd u r hu.2 hu.1) ⟨hs, hn⟩

theorem State.takeHoldBuffer_keeps (h : KeepsLane P) (hs : P s) : P s.takeHoldBuffer := by
  unfold State.takeHoldBuffer
  split
  · split
    · rename_i hc
      exact State.takeMessage_keeps_room h (h.holdBuf s none hs) hc.2
    · exact hs
  · exact hs

theorem State.endHeldUnitOf_keeps (h : KeepsLane P) {p : PortWork → Bool} (hs : P s) : P (s.endHeldUnitOf p u) := by
  unfold State.endHeldUnitOf
  split
  · exact State.takeHoldBuffer_keeps h (State.endUnit_keeps h.toKeepsStore hs)
  · exact hs

/-- The placing of a complete message. -/
theorem State.place_keeps (h : KeepsLane P) (hs : P s) : P (s.place m) := by
  unfold State.place
  dsimp only
  have h1 := State.takeHoldBuffer_keeps h hs
  split
  · rename_i hc
    simp only [State.canTake, Bool.and_eq_true, decide_eq_true_eq] at hc
    exact State.takeMessage_keeps_room h h1 hc.2
  · split
    · exact h.holdBuf _ _ h1
    · exact h.overrun _ _ h1

theorem KeepsLane.reject (h : KeepsLane P) (s : State) (x : Asm) (hs : P s) : P { s with crcReject := true, asm := x } :=
  h.asm _ x (h.crcReject s true hs)

theorem State.rejectLength_keeps (h : KeepsLane P) (hs : P s) : P s.rejectLength := h.reject _ _ hs

theorem State.submit_keeps (h : KeepsLane P) (hs : P s) : P (s.submit m) := by
  unfold State.submit
  split
  · exact State.rejectLength_keeps h hs
  · exact State.place_keeps h hs

theorem State.checkMessage_keeps (h : KeepsLane P) (hs : P s) : P (s.checkMessage l) := by
  unfold State.checkMessage
  split
  · exact State.place_keeps h hs
  · exact h.crcReject _ _ hs

theorem State.headerByte_keeps (h : KeepsLane P) (hs : P s) : P (s.headerByte l) := by
  unfold State.headerByte
  split
  · exact h.asm _ _ hs
  · split
    · exact State.rejectLength_keeps h hs
    · split <;> exact h.asm _ _ hs

theorem State.laneByte_keeps (h : KeepsLane P) {x : Byte} (hs : P s) : P (s.laneByte b x) := by
  unfold State.laneByte
  dsimp only
  split
  · split
    · exact State.headerByte_keeps h hs
    · exact hs
  · exact State.headerByte_keeps h hs
  · exact h.asm _ _ hs
  · split
    · exact State.checkMessage_keeps h (h.asm s _ hs)
    · exact h.asm _ _ hs

theorem State.laneBytes_keeps (h : KeepsLane P) (f : Nat) (l : List Byte) :
    ∀ s a, P s → P (s.laneBytes f a l) := by
  induction l with
  | nil => exact fun _ _ hs => hs
  | cons x l ih => exact fun s a hs => ih _ _ (State.laneByte_keeps h hs)

theorem KeepsLane.gap (h : KeepsLane P) (s : State) (x : Asm) (hs : P s) : P { s with laneLoss := true, asm := x } :=
  h.asm _ x (h.laneLoss s true hs)

theorem State.laneGap_keeps (h : KeepsLane P) (hs : P s) : P s.laneGap := h.gap _ _ hs

/-! ## Block periods and the trunk -/

theorem KeepsClock.window (h : KeepsClock P) (s : State) (x y z : Nat) (hs : P s) :
    P { s with integrityCount := x, integrityAcc := y, windowCount := z } :=
  h.windowCount _ z (h.integrityAcc _ y (h.integrityCount s x hs))

theorem KeepsClock.count (h : KeepsClock P) (s : State) (x y : Nat) (hs : P s) :
    P { s with windowCount := x, integrityAcc := y } := h.integrityAcc _ y (h.windowCount s x hs)

theorem KeepsClock.enter (h : KeepsClock P) (s : State) (q : Half) (a b c : Bool) (hs : P s) :
    P { s with outSeq := q, periodOpen := a, periodLocked := b, periodStarting := c } :=
  h.periodStarting _ c (h.periodLocked _ b (h.periodOpen _ a (h.outSeq s q hs)))

theorem KeepsClock.send (h : KeepsClock P) (s : State) (x y : List Byte) (a : Bool) (hs : P s) :
    P { s with feedOut := x, returnOut := y, periodOpen := a } :=
  h.periodOpen _ a (h.returnOut _ y (h.feedOut s x hs))

theorem KeepsClock.marksTx (h : KeepsClock P) (s : State) (n : MarkNotice) (l : List MarkNotice) (x : List Byte)
    (hl : s.marks = n :: l) (hs : P s) : P { s with marks := l, tx := x } := h.tx _ x (h.markLeaves s n l hl hs)

theorem KeepsClock.noticesTx (h : KeepsClock P) (s : State) (n : StoreNotice) (l : List StoreNotice) (x : List Byte)
    (hl : s.storeNotices = n :: l) (hs : P s) : P { s with storeNotices := l, tx := x } :=
  h.tx _ x (h.noticeLeaves s n l hl hs)

theorem KeepsClock.repliesTx (h : KeepsClock P) (s : State) (r : Reply) (l : List Reply) (x : List Byte)
    (hl : s.replies = r :: l) (hs : P s) : P { s with replies := l, tx := x } := h.tx _ x (h.replyLeaves s r l hl hs)

theorem KeepsClock.flags (h : KeepsClock P) (s : State) (hs : P s) : P s.clearEvents :=
  h.commitEnded _ false (h.overrun _ false (h.crcReject _ false (h.laneLoss s false hs)))

theorem State.source_alarms (s : State) (l : List AlarmRecord) (id : SourceId) :
    ({ s with alarms := l } : State).source id = s.source id := by cases id <;> rfl

theorem State.alarmLeaves_keeps (h : KeepsClock P) {r : AlarmRecord} {l : List AlarmRecord} (hl : s.alarms = r :: l)
    (hs : P s) : P s.alarmLeaves := by
  unfold State.alarmLeaves State.buildDeferred
  split
  · exact h.alarmLeaves s r _ (by rw [hl]; rfl) hs
  · rename_i id hd
    have hu : (({ s with alarms := s.alarms.tail } : State).source id).unreported = true := by
      simpa using List.find?_some hd
    rw [State.source_alarms] at hu ⊢
    exact h.alarmRefill s r _ _ id (by rw [hl]; rfl) rfl hu hs

theorem State.beginNotice_keeps (h : KeepsClock P) (hs : P s) : P s.beginNotice := by
  unfold State.beginNotice
  split
  · exact h.marksTx _ _ _ _ ‹_› hs
  · split
    · exact h.noticesTx _ _ _ _ ‹_› hs
    · split
      · exact h.tx _ _ (State.alarmLeaves_keeps h ‹_› hs)
      · exact hs

theorem State.beginMessage_keeps (h : KeepsClock P) (hs : P s) : P s.beginMessage := by
  unfold State.beginMessage
  split
  · split
    · exact State.takeHoldBuffer_keeps h.toKeepsLane (h.repliesTx s.clearEvents _ _ _ ‹_› (h.flags s hs))
    · exact State.beginNotice_keeps h hs
  · exact State.beginNotice_keeps h hs

theorem LaneFill.pour_keeps (h : KeepsClock P) {f : LaneFill} (hs : P f.state) : P f.pour.state := h.tx _ _ hs

theorem LaneFill.choose_keeps (h : KeepsClock P) {f : LaneFill} (hs : P f.state) : P f.choose.state := by
  unfold LaneFill.choose
  split
  · dsimp only
    split
    · exact hs
    · exact LaneFill.pour_keeps h (State.beginMessage_keeps h hs)
  · exact hs

theorem State.fillLane_keeps (h : KeepsClock P) (hs : P s) : P s.fillLane.state := by
  unfold State.fillLane
  exact LaneFill.choose_keeps h (LaneFill.choose_keeps h (LaneFill.choose_keeps h (LaneFill.choose_keeps h
    (LaneFill.pour_keeps h hs))))

theorem State.sendBlocks_keeps (h : KeepsClock P) (hs : P s) : P s.sendBlocks := by
  unfold State.sendBlocks
  exact h.send _ _ _ _ (State.fillLane_keeps h hs)

theorem State.processPeriod_keeps (h : KeepsCues P) (hs : P s) : P s.processPeriod := by
  unfold State.processPeriod
  have ha := h.toKeepsAlarms
  exact State.refreshLines_keeps h.toKeepsLines (State.forScreens_keeps
    (fun _ _ hu => State.handAlarms_keeps h.toKeepsScreens hu) (State.stepDeviceSources_keeps ha
      (State.forScreens_keeps (fun _ _ hu => State.stepScreenSources_keeps ha hu)
        (State.forFeeds_keeps (fun _ _ _ hu => State.feedPeriod_keeps ha hu) hs))))

/-- The end of a block period. -/
theorem State.closePeriod_keeps (h : KeepsClock P) (hs : P s) : P s.closePeriod :=
  State.sendBlocks_keeps h (h.count _ _ _ (State.processPeriod_keeps h.toKeepsCues hs))

theorem State.closeIfOpen_keeps (h : KeepsClock P) (hs : P s) : P s.closeIfOpen := by
  unfold State.closeIfOpen
  split
  · exact State.closePeriod_keeps h hs
  · exact hs

theorem State.settle_keeps (h : KeepsClock P) (hs : P s) : P s.settle := by
  unfold State.settle
  dsimp only
  refine State.takeHoldBuffer_keeps h.toKeepsLane (State.overdueUnit_keeps h.toKeepsStore
    (State.forScreens_keeps (fun _ _ hu => State.takeMuteZero_keeps h.toKeepsAlarms hu) ?_))
  split
  · exact h.window _ _ _ _ hs
  · exact hs

/-- The opening of a block period. -/
theorem State.openPeriod_keeps (h : KeepsClock P) {q : Option Half} (hs : P s) : P (s.openPeriod q b) := by
  unfold State.openPeriod
  exact State.forLines_keeps (fun _ _ hu => State.lineBoundary_keeps h.toKeepsLines hu)
    (State.ageUnit_keeps h.toKeepsGrant (State.forScreens_keeps (fun _ _ hu => State.screenBoundary_keeps h.toKeepsGrant hu)
      (h.enter _ _ _ _ _ (State.settle_keeps h hs))))

theorem State.openFree_keeps (h : KeepsPeriod P) (hs : P s) : P s.openFree :=
  State.absentPeriod_keeps h.toKeepsTracker (State.openPeriod_keeps h.toKeepsClock hs)

theorem State.handBlock_keeps (h : KeepsPeriod P) (hs : P s) : P (s.handBlock l b) := by
  unfold State.handBlock
  dsimp only
  have h1 : P ((s.forScreens fun i t => t.describeScreen l i).forScreens fun i t => t.takeEvent i (s.eventOf l i)) :=
    State.forScreens_keeps (fun _ _ hu => State.takeEvent_keeps h.toKeepsCues hu)
      (State.forScreens_keeps (fun _ _ hu => State.describeScreen_keeps h.toKeepsTracker hu) hs)
  split
  · exact State.laneBytes_keeps h.toKeepsLane _ _ _ _ (State.laneGap_keeps h.toKeepsLane h1)
  · exact State.laneBytes_keeps h.toKeepsLane _ _ _ _ h1

theorem State.setProg_keeps (h : KeepsPeriod P) {x : LockMachine} (hs : P s) : P (s.setProg x) :=
  State.refreshLines_keeps h.toKeepsLines (h.prog s x hs)

theorem State.countBad_keeps (h : KeepsPeriod P) (hs : P s) : P s.countBad := h.integrityAcc _ _ hs

theorem State.lostBlock_keeps (h : KeepsPeriod P) (hs : P s) : P s.lostBlock := by
  unfold State.lostBlock
  exact State.setProg_keeps h (h.lockLost _ _ (State.countBad_keeps h (State.laneGap_keeps h.toKeepsLane
    (State.absentPeriod_keeps h.toKeepsTracker (State.openPeriod_keeps h.toKeepsClock (State.closeIfOpen_keeps h.toKeepsClock hs))))))

theorem State.lockComplete_keeps (h : KeepsPeriod P) (hs : P s) : P (s.lockComplete l) := by
  unfold State.lockComplete
  exact State.handBlock_keeps h (State.setProg_keeps h (State.openPeriod_keeps h.toKeepsClock (State.closeIfOpen_keeps h.toKeepsClock hs)))

theorem State.takeLocked_keeps (h : KeepsPeriod P) (hs : P s) : P (s.takeLocked l) := by
  unfold State.takeLocked
  dsimp only
  refine State.handBlock_keeps h ?_
  have h1 := h.prog _ ((s.closeIfOpen.openPeriod (some (seqOf l)) true).prog.taken (seqOf l))
    (State.openPeriod_keeps (q := some (seqOf l)) (b := true) h.toKeepsClock (State.closeIfOpen_keeps h.toKeepsClock hs))
  split
  · exact State.countBad_keeps h h1
  · exact h1

theorem State.programBlock_keeps (h : KeepsPeriod P) (hs : P s) : P (s.programBlock b l) := by
  unfold State.programBlock
  split
  · split <;> [exact hs; exact h.prog _ _ hs]
  · split
    · split
      · exact State.lockComplete_keeps h hs
      · exact h.prog _ _ hs
    · exact h.prog _ _ hs
  · split
    · exact State.takeLocked_keeps h hs
    · exact State.lostBlock_keeps h hs

theorem State.senseBlock_keeps (h : KeepsPeriod P) (hs : P s) : P (s.senseBlock b l) := by
  unfold State.senseBlock
  split
  · exact h.sense _ _ hs
  · split
    · dsimp only
      split
      · exact State.senseReports_keeps h.toKeepsAlarms (h.sense _ _ hs)
      · exact h.sense _ _ hs
    · exact h.sense _ _ hs
  · split
    · exact State.senseReports_keeps h.toKeepsAlarms (h.sense _ _ hs)
    · exact h.sense _ _ hs

theorem State.ensureOpen_keeps (h : KeepsPeriod P) (hs : P s) : P s.ensureOpen := by
  unfold State.ensureOpen
  split
  · exact hs
  · split
    · exact State.lostBlock_keeps h hs
    · exact State.openFree_keeps h hs

theorem State.blockPeriod_keeps (h : KeepsPeriod P) (hs : P s) : P s.blockPeriod := by
  have h1 : P s.ensureOpen.closePeriod := State.closePeriod_keeps h.toKeepsClock (State.ensureOpen_keeps h hs)
  unfold State.blockPeriod
  generalize s.ensureOpen.closePeriod = t at h1 ⊢
  dsimp only
  split
  · exact h1
  · exact State.openFree_keeps h h1

/-! ## Whole commands -/

/-- A property closed under every elementary change is kept by every command but RESET, and by RESET where the part after
it has the property. -/
theorem exec_keeps (h : KeepsPeriod P) (hz : P s → P s.afterReset) (c : Instr) {t : State} (hs : P s)
    (ht : exec c s = .next t) : P t := by
  have hsub : ∀ m, P (s.submit m) := fun m => State.submit_keeps h.toKeepsLane hs
  have hstore := h.toKeepsStore
  have hal := h.toKeepsAlarms
  cases c <;> simp only [exec] at ht <;> try (injection ht with ht; subst ht)
  case reset => exact hz hs
  case blockPeriod => exact State.blockPeriod_keeps h hs
  case programBlock => exact State.programBlock_keeps h hs
  case lostBlock => split <;> [exact State.lostBlock_keeps h hs; exact hs]
  case integrityWindowEnd => split <;> [exact h.toKeepsClock.window _ _ _ _ hs; exact hs]
  case dropoutLimit => split <;> [exact State.absentScreen_keeps h.toKeepsTracker hs; exact hs]
  case alarmRaised => split <;> [exact State.stepSource_keeps hal hs; exact hs]
  case alarmCleared => split <;> [exact State.stepSource_keeps hal hs; exact hs]
  case protectEscalation => split <;> [exact State.stepSource_keeps hal hs; exact hs]
  case protectRecovery => split <;> [exact State.stepSource_keeps hal hs; exact hs]
  case senseBlock => exact State.senseBlock_keeps h hs
  case lostSenseBlock => split <;> [exact h.sense _ _ hs; exact hs]
  case scanPageRead => exact State.endUnitOf_keeps hstore hs
  case presetLoadEnd => exact State.endUnitOf_keeps hstore hs
  case liveSetReplacement => exact State.takeMuteZero_keeps hal hs
  case swapEnd => exact State.takeSwapEnd_keeps h.toKeepsGrant hs
  case formatRefreshEnd => exact State.endUnitOf_keeps hstore hs
  case pageWriteEnd => exact State.endUnitOf_keeps hstore hs
  case pageVerifyEnd => exact State.endUnitOf_keeps hstore hs
  case erasePageWriteEnd => exact State.endHeldUnitOf_keeps h.toKeepsLane hs
  case fetchComplete => exact State.endHeldUnitOf_keeps h.toKeepsLane hs
  case stretchExpiry => split <;> [exact State.stretchStep_keeps h.toKeepsLines hs; exact hs]
  case pulseExpiry => split <;> [exact State.pulseStep_keeps h.toKeepsLines hs; exact hs]
  case blinkPhaseChange => split <;> [exact State.setLine_keeps h.toKeepsLines hs; exact hs]
  case holdBufferTake => exact State.takeHoldBuffer_keeps h.toKeepsLane hs
  case lockInputChange => exact h.lockInput _ _ hs
  case confirmDuePointMissed port =>
    cases port <;> injection ht with ht <;> subst ht
    · exact h.prog _ _ hs
    · exact h.sense _ _ hs
  all_goals exact hsub _

/-- The same of a step; taking the command off the queue must keep the property too. -/
theorem step_keeps (h : KeepsPeriod P) (hz : ∀ s, P s → P s.afterReset) (hp : ∀ s x, P s → P { s with pending := x })
    {t : State} (hs : P s) (ht : step s = .next t) : P t := by
  unfold step at ht
  split at ht
  · injection ht with ht; subst ht; exact hs
  · exact exec_keeps h (hz _) _ (hp s _ hs) ht

end Sys2Proof.Machine
end

