-- ==== Sys2Proof/Laws/Chain.lean ====
section
/-! SUPPORT. What the processing of a period can do, said once: every feed's chain runs its block from the state the period
ended in, no alarm step touches another feed's chain or gain, and what the two blocks are formed of is left (R42, R90). With
it, what the filling of a return lane places (R182). -/

namespace Sys2Proof.Machine

/-! ## What the alarm steps of a period leave -/

/-- What a screen's chains and its summary read beside its feeds, and the folds of its feeds, are the same. -/
structure ScreenFrame (x y : Screen) : Prop where
  handed : y.handed = x.handed
  live : y.live = x.live
  master : y.master = x.master
  mute : y.mute = x.mute
  source : y.source = x.source
  tracking : y.tracking = x.tracking
  tracker : y.tracker = x.tracker
  folded : ∀ k, (y.feed k).folded = (x.feed k).folded

theorem ScreenFrame.refl (x : Screen) : ScreenFrame x x := ⟨rfl, rfl, rfl, rfl, rfl, rfl, rfl, fun _ => rfl⟩

theorem ScreenFrame.trans {x y z : Screen} (a : ScreenFrame x y) (b : ScreenFrame y z) : ScreenFrame x z :=
  ⟨b.handed.trans a.handed, b.live.trans a.live, b.master.trans a.master, b.mute.trans a.mute, b.source.trans a.source,
    b.tracking.trans a.tracking, b.tracker.trans a.tracker, fun k => (b.folded k).trans (a.folded k)⟩

/-- What the chains and the two blocks read of the state is the same. -/
structure PeriodFrame (s t : State) : Prop where
  cache : t.cache = s.cache
  periodLocked : t.periodLocked = s.periodLocked
  periodStarting : t.periodStarting = s.periodStarting
  outSeq : t.outSeq = s.outSeq
  tx : t.tx = s.tx
  screens : ∀ j, ScreenFrame (s.screen j) (t.screen j)

theorem PeriodFrame.refl (s : State) : PeriodFrame s s := ⟨rfl, rfl, rfl, rfl, rfl, fun _ => .refl _⟩

theorem PeriodFrame.trans {x y z : State} (a : PeriodFrame x y) (b : PeriodFrame y z) : PeriodFrame x z :=
  ⟨b.cache.trans a.cache, b.periodLocked.trans a.periodLocked, b.periodStarting.trans a.periodStarting,
    b.outSeq.trans a.outSeq, b.tx.trans a.tx, fun j => (a.screens j).trans (b.screens j)⟩

/-- A feed's chain, its samples sent and its meter are the same. -/
structure ChainSame (f g : Feed) : Prop where
  biquads : g.biquads = f.biquads
  delay : g.delay = f.delay
  out : g.out = f.out
  meter : g.meter = f.meter

theorem ChainSame.refl (f : Feed) : ChainSame f f := ⟨rfl, rfl, rfl, rfl⟩

theorem ChainSame.trans {x y z : Feed} (a : ChainSame x y) (b : ChainSame y z) : ChainSame x z :=
  ⟨b.biquads.trans a.biquads, b.delay.trans a.delay, b.out.trans a.out, b.meter.trans a.meter⟩

/-- The same, with every feed's chain, and every feed's protect record but that of feed `e`. -/
def FeedsFrame (e : Option (Fin 12 × Fin 16)) (s t : State) : Prop :=
  PeriodFrame s t ∧ ∀ i k, ChainSame (s.feed i k) (t.feed i k) ∧
    (e ≠ some (i, k) → (t.feed i k).protect = (s.feed i k).protect)

/-- A change that leaves the screens and the period's fields. -/
theorem FeedsFrame.same {e} {s t : State} (h : t.screens = s.screens) (hc : t.cache = s.cache)
    (hl : t.periodLocked = s.periodLocked) (hs : t.periodStarting = s.periodStarting) (hq : t.outSeq = s.outSeq)
    (hx : t.tx = s.tx) : FeedsFrame e s t := by
  have hsc : t.screen = s.screen := by funext j; unfold State.screen; rw [h]
  refine ⟨⟨hc, hl, hs, hq, hx, fun j => ?_⟩, fun i k => ?_⟩
  · rw [hsc]; exact .refl _
  · unfold State.feed; rw [hsc]; exact ⟨.refl _, fun _ => rfl⟩

theorem FeedsFrame.refl (e) (s : State) : FeedsFrame e s s := .same rfl rfl rfl rfl rfl rfl

theorem FeedsFrame.trans {e} {x y z : State} (a : FeedsFrame e x y) (b : FeedsFrame e y z) : FeedsFrame e x z :=
  ⟨a.1.trans b.1, fun i k => ⟨(a.2 i k).1.trans (b.2 i k).1, fun h => ((b.2 i k).2 h).trans ((a.2 i k).2 h)⟩⟩

theorem FeedsFrame.weaken {s t : State} {e} (h : FeedsFrame none s t) : FeedsFrame e s t :=
  ⟨h.1, fun i k => ⟨(h.2 i k).1, fun _ => (h.2 i k).2 (by simp)⟩⟩

theorem State.onScreen_periodFrame (s : State) (i : Fin 12) (f : Screen → Screen)
    (h : ScreenFrame (s.screen i) (f (s.screen i))) : PeriodFrame s (s.onScreen i f) := by
  refine ⟨rfl, rfl, rfl, rfl, rfl, fun j => ?_⟩
  unfold State.onScreen
  rw [State.screen_setScreen]
  split
  · rename_i e; subst e; exact h
  · exact .refl _

theorem State.onFeed_periodFrame (s : State) (i : Fin 12) (k : Fin 16) (g : Feed → Feed)
    (h : (g (s.feed i k)).folded = (s.feed i k).folded) : PeriodFrame s (s.onFeed i k g) := by
  apply State.onScreen_periodFrame
  refine ⟨rfl, rfl, rfl, rfl, rfl, rfl, rfl, fun q => ?_⟩
  rw [Screen.feed_setFeed]
  split
  · rename_i e; subst e; exact h
  · rfl

/-- A change of a screen that leaves its feeds. -/
theorem State.onScreen_feedsFrame {e} (s : State) (i : Fin 12) (f : Screen → Screen)
    (h : ScreenFrame (s.screen i) (f (s.screen i))) (hf : (f (s.screen i)).feeds = (s.screen i).feeds) :
    FeedsFrame e s (s.onScreen i f) := by
  refine ⟨State.onScreen_periodFrame _ _ _ h, fun j k => ?_⟩
  have : (s.onScreen i f).feed j k = s.feed j k := by
    unfold State.feed State.onScreen
    rw [State.screen_setScreen]
    split
    · rename_i e; subst e; unfold Screen.feed; rw [hf]
    · rfl
  rw [this]; exact ⟨.refl _, fun _ => rfl⟩

/-- A change of a feed that leaves its chain and its fold, and its protect record unless the feed is `e`. -/
theorem State.onFeed_feedsFrame {e} (s : State) (i : Fin 12) (k : Fin 16) (g : Feed → Feed)
    (h : ChainSame (s.feed i k) (g (s.feed i k))) (hd : (g (s.feed i k)).folded = (s.feed i k).folded)
    (hp : e ≠ some (i, k) → (g (s.feed i k)).protect = (s.feed i k).protect) : FeedsFrame e s (s.onFeed i k g) := by
  refine ⟨State.onFeed_periodFrame _ _ _ _ hd, fun j q => ?_⟩
  by_cases hj : j = i ∧ q = k
  · obtain ⟨rfl, rfl⟩ := hj
    rw [State.feed_onFeed_same]; exact ⟨h, hp⟩
  · rw [State.feed_onFeed_other (h := hj)]; exact ⟨.refl _, fun _ => rfl⟩

theorem State.setSource_feedsFrame {e} (s : State) (id : SourceId) (x : Source) : FeedsFrame e s (s.setSource id x) := by
  cases id <;> unfold State.setSource <;> dsimp only
  all_goals first
    | exact .same rfl rfl rfl rfl rfl rfl
    | exact State.onScreen_feedsFrame _ _ _ ⟨rfl, rfl, rfl, rfl, rfl, rfl, rfl, fun _ => rfl⟩ rfl
    | exact State.onFeed_feedsFrame _ _ _ _ ⟨rfl, rfl, rfl, rfl⟩ rfl fun _ => rfl

theorem State.reportMove_feedsFrame {e} (s : State) (id : SourceId) (m : Option Bool) (q : Half) :
    FeedsFrame e s (s.reportMove id m q) := by
  unfold State.reportMove
  split
  · unfold State.report
    split
    · unfold State.takeReport
      split
      · exact .same rfl rfl rfl rfl rfl rfl
      · split
        · exact .same rfl rfl rfl rfl rfl rfl
        · exact State.setSource_feedsFrame _ _ _
    · exact .refl _ _
  · exact .refl _ _

/-- The feed whose protect record a source's step may change. -/
def protectedFeed : SourceId → Option (Fin 12 × Fin 16)
  | .overload i k => some (i, k)
  | _ => none

/-- An evaluation step of a source other than a MISMATCH leaves every chain, every gain but its own feed's, and what the
blocks are formed of. -/
theorem State.stepSource_feedsFrame (s : State) (id : SourceId) (raw : Option Bool) (q : Half)
    (hm : ∀ i k, id ≠ .mismatch i k) : FeedsFrame (protectedFeed id) s (s.stepSource id raw q) := by
  unfold State.stepSource
  dsimp only
  generalize (s.source id).evaluate _ _ raw = r
  have h : FeedsFrame (protectedFeed id) s ((s.setSource id r.1).reportMove id r.2 q) :=
    (State.setSource_feedsFrame _ _ _).trans (State.reportMove_feedsFrame _ _ _ _)
  revert h
  generalize (s.setSource id r.1).reportMove id r.2 q = u
  intro h
  refine h.trans ?_
  unfold State.protectiveAction
  split
  · split
    · exact State.onFeed_feedsFrame _ _ _ _ ⟨rfl, rfl, rfl, rfl⟩ rfl fun h => absurd rfl h
    · exact .refl _ _
  · exact absurd rfl (hm _ _)
  · exact .refl _ _

/-! ## The chains of a period -/

/-- A feed's block is a function of what these frames keep. -/
theorem State.feedBlock_frame {s t : State} {i : Fin 12} {k : Fin 16} (h : PeriodFrame s t)
    (hf : ChainSame (s.feed i k) (t.feed i k)) (hp : (t.feed i k).protect = (s.feed i k).protect) :
    (t.screen i).feedBlock (t.formatFor (t.screen i).handed.effectiveCode) k =
      (s.screen i).feedBlock (s.formatFor (s.screen i).handed.effectiveCode) k := by
  have x := h.screens i
  have ho : (t.screen i).out = (s.screen i).out := by
    funext q; unfold Screen.out; rw [x.live, x.folded]
  have hb := hf.biquads
  have hd := hf.delay
  unfold Screen.feedBlock Screen.gain State.formatFor
  unfold State.feed at hp hb hd
  rw [x.handed, x.live, x.master, x.mute, ho, hp, hb, hd, h.cache]

/-- In t the chain, the samples sent and the meter of feed i.k are what its block from s leaves. -/
def ChainDone (s t : State) (i : Fin 12) (k : Fin 16) : Prop :=
  let r := (s.screen i).feedBlock (s.formatFor (s.screen i).handed.effectiveCode) k
  let l := placeOut s.silentPeriod r.1
  (t.feed i k).biquads = r.2.biquads ∧ (t.feed i k).delay = r.2.delay ∧ (t.feed i k).out = l.map Sample.value ∧
    (t.feed i k).meter = (s.feed i k).meter.block l s.outSeq

theorem ChainDone.after {s t u : State} {i k} (o : ChainSame (t.feed i k) (u.feed i k)) (d : ChainDone s t i k) :
    ChainDone s u i k := by
  unfold ChainDone at *
  exact ⟨o.biquads.trans d.1, o.delay.trans d.2.1, o.out.trans d.2.2.1, o.meter.trans d.2.2.2⟩

theorem ChainDone.before {s t u : State} {i k} (h : PeriodFrame s t) (hf : ChainSame (s.feed i k) (t.feed i k))
    (hp : (t.feed i k).protect = (s.feed i k).protect) (d : ChainDone t u i k) : ChainDone s u i k := by
  unfold ChainDone at *
  have hs : t.silentPeriod = s.silentPeriod := by
    unfold State.silentPeriod; rw [h.periodLocked, h.periodStarting]
  rw [State.feedBlock_frame h hf hp, hs, hf.meter, h.outSeq] at d
  exact d

/-- A feed's block period runs its own chain and leaves every other chain and gain. -/
theorem State.feedPeriod_chain (s : State) (i : Fin 12) (k : Fin 16) :
    PeriodFrame s (s.feedPeriod i k) ∧ ChainDone s (s.feedPeriod i k) i k ∧
      ∀ j q, ¬(j = i ∧ q = k) → ChainSame (s.feed j q) ((s.feedPeriod i k).feed j q) ∧
        ((s.feedPeriod i k).feed j q).protect = (s.feed j q).protect := by
  have he : FeedsFrame (some (i, k)) (s.chainFeed i k) (s.feedPeriod i k) := by
    unfold State.feedPeriod State.evaluateFeed
    exact (State.stepSource_feedsFrame _ (.overload i k) _ _ nofun).trans
      (State.stepSource_feedsFrame _ (.silent i k) _ _ nofun).weaken
  have c : PeriodFrame s (s.chainFeed i k) := by unfold State.chainFeed; exact State.onFeed_periodFrame _ _ _ _ rfl
  refine ⟨c.trans he.1, ChainDone.after (he.2 i k).1 ?_, fun j q hj => ?_⟩
  · unfold ChainDone State.chainFeed
    dsimp only
    rw [State.feed_onFeed_same]
    exact ⟨rfl, rfl, rfl, rfl⟩
  · have hc : (s.chainFeed i k).feed j q = s.feed j q := by
      unfold State.chainFeed; exact State.feed_onFeed_other (h := hj) ..
    have h := he.2 j q
    rw [hc] at h
    exact ⟨h.1, h.2 (by rintro ⟨⟩; exact hj ⟨rfl, rfl⟩)⟩

/-- The block periods of all feeds: each runs its chain from the state the period ended in, whatever the order. -/
theorem State.feedPeriods_chain (s : State) :
    PeriodFrame s (s.forFeeds fun i k t => t.feedPeriod i k) ∧
      ∀ i k, ChainDone s (s.forFeeds fun i k t => t.feedPeriod i k) i k := by
  have key : ∀ (l : List (Fin 12 × Fin 16)), l.Nodup → ∀ s : State, let t := l.foldl (fun t p => t.feedPeriod p.1 p.2) s
      PeriodFrame s t ∧ (∀ p ∈ l, ChainDone s t p.1 p.2) ∧ ∀ p, p ∉ l →
        ChainSame (s.feed p.1 p.2) (t.feed p.1 p.2) ∧ (t.feed p.1 p.2).protect = (s.feed p.1 p.2).protect := by
    intro l
    induction l with
    | nil => intro _ s; exact ⟨.refl s, by simp, fun _ _ => ⟨.refl _, rfl⟩⟩
    | cons a l ih =>
      intro hn s
      rw [List.nodup_cons] at hn
      rw [List.foldl_cons]
      have st := State.feedPeriod_chain s a.1 a.2
      have other : ∀ p, p ≠ a → ¬(p.1 = a.1 ∧ p.2 = a.2) := fun p hp h => hp (Prod.ext h.1 h.2)
      obtain ⟨f2, d2, o2⟩ := ih hn.2 (s.feedPeriod a.1 a.2)
      refine ⟨st.1.trans f2, fun p hp => ?_, fun p hp => ?_⟩
      · rcases List.mem_cons.1 hp with rfl | hp
        · exact ChainDone.after (o2 p hn.1).1 st.2.1
        · have ho := st.2.2 p.1 p.2 (other p fun e => hn.1 (e ▸ hp))
          exact ChainDone.before st.1 ho.1 ho.2 (d2 p hp)
      · rw [List.mem_cons, not_or] at hp
        have ho := st.2.2 p.1 p.2 (other p hp.1)
        exact ⟨ho.1.trans (o2 p hp.2).1, (o2 p hp.2).2.trans ho.2⟩
  have flat : (s.forFeeds fun i k t => t.feedPeriod i k) =
      ((List.finRange 12).flatMap fun i => (List.finRange 16).map fun k => (i, k)).foldl
        (fun t p => t.feedPeriod p.1 p.2) s := by
    unfold State.forFeeds State.forScreens
    rw [List.foldl_flatMap]
    simp only [List.foldl_map]
  have h := key ((List.finRange 12).flatMap fun i => (List.finRange 16).map fun k => (i, k)) (by decide +kernel) s
  rw [flat]
  exact ⟨h.1, fun i k => h.2.1 (i, k) (by simp)⟩

theorem State.forScreens_feedsFrame {f : Fin 12 → State → State} (h : ∀ i t, FeedsFrame none t (f i t)) (s : State) :
    FeedsFrame none s (s.forScreens f) := by
  unfold State.forScreens
  generalize List.finRange 12 = l
  induction l generalizing s with
  | nil => exact .refl _ _
  | cons a l ih => exact (h a s).trans (ih _)

theorem State.stepScreenSources_feedsFrame (i : Fin 12) (s : State) : FeedsFrame none s (s.stepScreenSources i) := by
  unfold State.stepScreenSources
  exact ((State.stepSource_feedsFrame s (.track i) _ _ nofun).trans
    (State.stepSource_feedsFrame _ (.dropout i) _ _ nofun)).trans (State.stepSource_feedsFrame _ (.preset i) _ _ nofun)

theorem State.stepDeviceSources_feedsFrame (s : State) : FeedsFrame none s s.stepDeviceSources := by
  unfold State.stepDeviceSources
  exact (State.stepSource_feedsFrame s .trunk _ _ nofun).trans (State.stepSource_feedsFrame _ .senselink _ _ nofun)

theorem State.handAlarms_feedsFrame (i : Fin 12) (s : State) : FeedsFrame none s (s.handAlarms i) := by
  unfold State.handAlarms
  exact State.onScreen_feedsFrame _ _ _ ⟨rfl, rfl, rfl, rfl, rfl, rfl, rfl, fun _ => rfl⟩ rfl

theorem State.refreshLines_feedsFrame (s : State) : FeedsFrame none s s.refreshLines :=
  State.refreshLines_keeps (P := FeedsFrame none s) ⟨fun _ _ h => h.trans (.same rfl rfl rfl rfl rfl rfl)⟩ (.refl _ s)

/-- The processing of a period: what the two blocks are formed of is left, and every feed's chain, samples sent and meter
are what its block leaves (R42, R51, R90). -/
theorem State.processPeriod_chain (s : State) :
    PeriodFrame s s.processPeriod ∧ ∀ i k, ChainDone s s.processPeriod i k := by
  have h1 := State.feedPeriods_chain s
  unfold State.processPeriod
  dsimp only
  revert h1
  generalize (s.forFeeds fun i k t => t.feedPeriod i k) = u
  intro h1
  have h2 := State.forScreens_feedsFrame State.stepScreenSources_feedsFrame u
  revert h2
  generalize (u.forScreens fun i t => t.stepScreenSources i) = u2
  intro h2
  have h3 := h2.trans (State.stepDeviceSources_feedsFrame u2)
  revert h3
  generalize u2.stepDeviceSources = u3
  intro h3
  have h4 := h3.trans (State.forScreens_feedsFrame State.handAlarms_feedsFrame u3)
  revert h4
  generalize (u3.forScreens fun i t => t.handAlarms i) = u4
  intro h4
  have h5 := h4.trans (State.refreshLines_feedsFrame u4)
  exact ⟨h1.1.trans h5.1, fun i k => ChainDone.after (h5.2 i k).1 (h1.2 i k)⟩

/-! ## The filling of a return lane -/

/-- A choice of the arbiter keeps the lane within its 32 bytes, what was placed, and the first message begun. -/
theorem LaneFill.choose_placed (f : LaneFill) : (f.placed.length ≤ 32 → f.choose.placed.length ≤ 32) ∧
    f.placed <+: f.choose.placed ∧ ∀ q, f.first = some q → f.choose.first = some q := by
  unfold LaneFill.choose
  split
  · dsimp only
    split
    · exact ⟨id, List.prefix_refl _, fun _ h => h⟩
    · unfold LaneFill.pour
      exact ⟨fun h => by simp [Config.laneSize]; omega, List.prefix_append _ _, fun q h => by simp [h]⟩
  · exact ⟨id, List.prefix_refl _, fun _ h => h⟩

/-- A full lane, or one with nothing left to begin, is left as it is. -/
theorem LaneFill.choose_done (f : LaneFill)
    (h : f.placed.length < 32 → f.state.tx = [] → f.state.beginMessage.tx = []) : f.choose = f := by
  unfold LaneFill.choose
  split
  · rename_i hc; dsimp only; rw [if_pos (h hc.1 hc.2)]
  · rfl

/-- The message in transmission comes first and fills the lane where it is long enough; else the lane holds it whole, and the
first message begun stands behind it. -/
theorem State.fillLane_first (s : State) : s.fillLane.placed.length ≤ 32 ∧
    (32 ≤ s.tx.length → s.fillLane = ⟨{ s with tx := s.tx.drop 32 }, s.tx.take 32, none⟩) ∧
    (s.tx.length < 32 → let b := State.beginMessage { s with tx := [] }
      (b.tx = [] → s.fillLane = ⟨{ s with tx := [] }, s.tx, none⟩) ∧
        (b.tx ≠ [] → s.fillLane.first = some s.tx.length ∧ (s.tx ++ b.tx).take 32 <+: s.fillLane.placed)) := by
  have stop : ∀ f : LaneFill, f.choose = f → f.choose.choose.choose.choose = f := fun f h => by rw [h, h, h, h]
  have pour : LaneFill.pour ⟨s, [], none⟩ = ⟨{ s with tx := s.tx.drop 32 }, s.tx.take 32, none⟩ := rfl
  have keep : ∀ f : LaneFill, (f.placed.length ≤ 32 → f.choose.choose.choose.placed.length ≤ 32) ∧
      f.placed <+: f.choose.choose.choose.placed ∧ ∀ q, f.first = some q → f.choose.choose.choose.first = some q := by
    intro f
    have h1 := f.choose_placed
    have h2 := f.choose.choose_placed
    have h3 := f.choose.choose.choose_placed
    exact ⟨fun h => h3.1 (h2.1 (h1.1 h)), (h1.2.1.trans h2.2.1).trans h3.2.1, fun q h => h3.2.2 q (h2.2.2 q (h1.2.2 q h))⟩
  unfold State.fillLane
  rw [pour]
  refine ⟨(keep _).1 ((LaneFill.choose_placed _).1 ?_), fun h => stop _ (LaneFill.choose_done _ fun h1 _ => ?_), ?_⟩
  · rw [List.length_take]; omega
  · rw [List.length_take] at h1; omega
  · intro h b
    rw [List.take_of_length_le (Nat.le_of_lt h), List.drop_eq_nil_of_le (Nat.le_of_lt h)]
    refine ⟨fun hb => stop _ (LaneFill.choose_done _ fun _ _ => hb), fun hb => ?_⟩
    have e : LaneFill.choose ⟨{ s with tx := [] }, s.tx, none⟩ = LaneFill.pour ⟨b, s.tx, some s.tx.length⟩ := by
      unfold LaneFill.choose
      rw [if_pos ⟨h, rfl⟩]; dsimp only; rw [if_neg hb]; rfl
    rw [e]
    refine ⟨(keep _).2.2 _ rfl, List.IsPrefix.trans ?_ (keep _).2.1⟩
    unfold LaneFill.pour
    dsimp only
    rw [List.take_append, List.take_of_length_le (Nat.le_of_lt h)]
    exact List.prefix_refl _

end Sys2Proof.Machine
end

