-- ==== Sys2Proof/Laws/Cues.lean ====
section
/-! SUPPORT. The order of positions, and what the edits of a cue list and the arrival of the engine do to the order of the
list and to the pointer (R137 to R139). -/

namespace Sys2Proof.Machine

theorem Position.before_trichotomy (p q : Position) : p.upTo q = true ↔ (p.before q = true ∨ p = q) := by
  obtain ⟨a, b⟩ := p; obtain ⟨c, d⟩ := q
  simp [Position.upTo, Position.before]; omega
theorem Position.before_trans {p q r : Position} (h : p.before q = true) (h2 : q.before r = true) : p.before r = true := by
  simp [Position.before] at *; omega
theorem Position.upTo_before {p q r : Position} (h : p.upTo q = true) (h2 : q.before r = true) : p.before r = true := by
  simp [Position.upTo, Position.before] at *; omega
theorem Position.before_upTo {p q r : Position} (h : p.before q = true) (h2 : q.upTo r = true) : p.before r = true := by
  simp [Position.upTo, Position.before] at *; omega
theorem Position.not_upTo (p q : Position) : p.upTo q = false ↔ q.before p = true := by simp [Position.upTo]

/-- The index of an insert splits an ordered list into the cues at or before the position and those after it. -/
theorem insertIndex_splits (l : List Cue) (p : Position) (hl : l.Pairwise (fun a b => a.before b ∧ a.id ≠ b.id)) :
    (∀ c ∈ l.take (insertIndex l p), c.pos.upTo p = true) ∧ (∀ c ∈ l.drop (insertIndex l p), p.before c.pos = true) := by
  unfold insertIndex
  induction l with
  | nil => simp
  | cons a l ih =>
    rw [List.pairwise_cons] at hl
    rw [List.takeWhile_cons]
    by_cases ha : a.pos.upTo p = true
    · rw [if_pos ha]
      simp only [List.length_cons, List.take_succ_cons, List.drop_succ_cons, List.mem_cons]
      exact ⟨fun c hc => hc.elim (fun e => e ▸ ha) ((ih hl.2).1 c), (ih hl.2).2⟩
    · rw [if_neg ha]
      simp only [List.length_nil, List.take_zero, List.drop_zero]
      refine ⟨by simp, ?_⟩
      intro c hc
      have h1 : p.before a.pos = true := (Position.not_upTo _ _).mp (by simpa using ha)
      rcases List.mem_cons.mp hc with rfl | hc
      · exact h1
      · rcases (hl.1 c hc).1 with h | h
        · exact Position.before_trans h1 h
        · rw [← h.1]; exact h1

theorem Screen.insert_ordered (x : Screen) (c : Cue) (h : x.listOrdered) (hf : ∀ d ∈ x.cues, d.id ≠ c.id) (hl : x.cues.length < 256) :
    (x.insert c).listOrdered := by
  obtain ⟨h1, h2, h3⟩ := h
  have hs := insertIndex_splits x.cues c.pos h1
  unfold Screen.listOrdered Screen.insert insertCue
  dsimp only
  have hmem : ∀ d, d ∈ x.cues.take (insertIndex x.cues c.pos) ∨ d ∈ x.cues.drop (insertIndex x.cues c.pos) → d ∈ x.cues := by
    intro d hd; rcases hd with hd | hd
    · exact List.mem_of_mem_take hd
    · exact List.mem_of_mem_drop hd
  refine ⟨?_, ?_, ?_⟩
  · rw [List.pairwise_append, List.pairwise_cons]
    have hp := h1
    rw [← List.take_append_drop (insertIndex x.cues c.pos) x.cues, List.pairwise_append] at hp
    refine ⟨hp.1, ⟨?_, hp.2.1⟩, ?_⟩
    · intro d hd
      exact ⟨Or.inl (hs.2 d hd), fun e => hf d (hmem d (Or.inr hd)) e.symm⟩
    · intro a ha b hb
      rcases List.mem_cons.mp hb with rfl | hb
      · refine ⟨?_, hf a (hmem a (Or.inl ha))⟩
        rcases (Position.before_trichotomy _ _).mp (hs.1 a ha) with h | h
        · exact Or.inl h
        · exact Or.inr ⟨h, h2 a (hmem a (Or.inl ha))⟩
      · exact hp.2.2 a ha b hb
  · intro d hd
    rw [List.mem_append, List.mem_cons] at hd
    rcases hd with hd | rfl | hd
    · exact Nat.lt_succ_of_lt (h2 d (hmem d (Or.inl hd)))
    · exact Nat.lt_succ_self _
    · exact Nat.lt_succ_of_lt (h2 d (hmem d (Or.inr hd)))
  · rw [List.length_append, List.length_cons]
    have := congrArg List.length (List.take_append_drop (insertIndex x.cues c.pos) x.cues)
    rw [List.length_append] at this
    omega

theorem Screen.insert_pointer (x : Screen) (c : Cue) (h : x.listOrdered) (hp : x.pointerInStep) (hf : ∀ d ∈ x.cues, d.id ≠ c.id) (hl : x.cues.length < 256) :
    (x.insert c).pointerInStep := by
  have ho := Screen.insert_ordered x c h hf hl
  intro ht
  obtain ⟨p, he, hn, h1, h2⟩ := hp ht
  have ht' : x.tracking = true := ht
  refine ⟨p, he, ?_⟩
  have hs := insertIndex_splits x.cues c.pos h.1
  have hc := List.take_append_drop (insertIndex x.cues c.pos) x.cues
  have hlen := congrArg List.length hc
  rw [List.length_append] at hlen
  have hptr : (x.insert c).pointer = if c.pos.upTo p then x.pointer + 1 else x.pointer := by
    simp [Screen.insert, Screen.pointerAfterInsert, ht', he]
  have hi : insertIndex x.cues c.pos ≤ x.cues.length := by
    unfold insertIndex; exact (List.takeWhile_sublist _).length_le
  have hcs : (x.insert c).cues = insertCue x.cues { c with number := x.counter, tagged := false } := rfl
  have hL : (x.insert c).cues = x.cues.take (insertIndex x.cues c.pos) ++ { c with number := x.counter, tagged := false } :: x.cues.drop (insertIndex x.cues c.pos) := hcs
  have hlen2 : (x.insert c).cues.length = x.cues.length + 1 := by rw [hL, List.length_append, List.length_cons]; omega
  rw [hptr, hlen2]
  by_cases hcp : c.pos.upTo p = true
  · rw [if_pos hcp]
    -- index ≤ pointer
    have hle : insertIndex x.cues c.pos ≤ x.pointer := by
      by_contra hgt
      have hgt : x.pointer < insertIndex x.cues c.pos := by omega
      have hx : x.pointer < x.cues.length := by omega
      have hm : x.cues[x.pointer] ∈ x.cues.drop x.pointer := by
        rw [List.drop_eq_getElem_cons hx]; exact List.mem_cons_self
      have hm2 : x.cues[x.pointer] ∈ x.cues.take (insertIndex x.cues c.pos) := by
        rw [List.mem_take_iff_getElem]; exact ⟨x.pointer, by omega, rfl⟩
      have a1 := h2 _ hm
      have a2 := hs.1 _ hm2
      have := Position.before_upTo a1 a2
      simp [Position.upTo] at hcp; simp [this] at hcp
    refine ⟨by omega, ?_, ?_⟩
    · intro d hd
      rw [hL, List.take_append, List.length_take, Nat.min_eq_left hi] at hd
      rcases List.mem_append.mp hd with hd | hd
      · have hd := List.mem_of_mem_take hd
        have := hs.1 d hd
        simp [Position.upTo, Position.before] at this hcp ⊢; omega
      · have he2 : x.pointer + 1 - insertIndex x.cues c.pos = (x.pointer - insertIndex x.cues c.pos) + 1 := by omega
        rw [he2, List.take_succ_cons] at hd
        rcases List.mem_cons.mp hd with rfl | hd
        · exact hcp
        · apply h1 d
          rw [List.take_drop] at hd
          have hq : insertIndex x.cues c.pos + (x.pointer - insertIndex x.cues c.pos) = x.pointer := by omega
          rw [hq] at hd
          exact List.mem_of_mem_drop hd
    · intro d hd
      rw [hL, List.drop_append, List.length_take, Nat.min_eq_left hi] at hd
      rcases List.mem_append.mp hd with hd | hd
      · rw [List.drop_eq_nil_of_le (by rw [List.length_take]; omega)] at hd; simp at hd
      · have he2 : x.pointer + 1 - insertIndex x.cues c.pos = (x.pointer - insertIndex x.cues c.pos) + 1 := by omega
        rw [he2, List.drop_succ_cons, List.drop_drop] at hd
        have hq : insertIndex x.cues c.pos + (x.pointer - insertIndex x.cues c.pos) = x.pointer := by omega
        rw [hq] at hd
        exact h2 d hd
  · rw [if_neg hcp]
    have hcp' : p.before c.pos = true := by simpa [Position.upTo] using hcp
    have hle : x.pointer ≤ insertIndex x.cues c.pos := by
      by_contra hgt
      have hgt : insertIndex x.cues c.pos < x.pointer := by omega
      have hx : insertIndex x.cues c.pos < x.cues.length := by omega
      have hm : x.cues[insertIndex x.cues c.pos] ∈ x.cues.drop (insertIndex x.cues c.pos) := by
        rw [List.drop_eq_getElem_cons hx]; exact List.mem_cons_self
      have hm2 : x.cues[insertIndex x.cues c.pos] ∈ x.cues.take x.pointer := by
        rw [List.mem_take_iff_getElem]; exact ⟨_, by omega, rfl⟩
      have a1 := hs.2 _ hm
      have a2 := h1 _ hm2
      simp [Position.upTo, Position.before] at a1 a2 hcp'; omega
    refine ⟨by omega, ?_, ?_⟩
    · intro d hd
      rw [hL, List.take_append_of_le_length (by rw [List.length_take]; omega), List.take_take, Nat.min_eq_left hle] at hd
      exact h1 d hd
    · intro d hd
      rw [hL, List.drop_append_of_le_length (by rw [List.length_take]; omega)] at hd
      rcases List.mem_append.mp hd with hd | hd
      · apply h2 d
        have : x.cues.drop x.pointer = (x.cues.take (insertIndex x.cues c.pos)).drop x.pointer ++ x.cues.drop (insertIndex x.cues c.pos) := by
          conv_lhs => rw [← hc]
          rw [List.drop_append_of_le_length (by rw [List.length_take]; omega)]
        rw [this]; exact List.mem_append_left _ hd
      · rcases List.mem_cons.mp hd with rfl | hd
        · exact hcp'
        · have := hs.2 d hd
          exact Position.before_trans hcp' this

theorem Screen.remove_ordered (x : Screen) (g : Cue → Bool) (h : x.listOrdered) : (x.removeCues g).listOrdered := by
  refine ⟨List.Pairwise.filter _ h.1, fun c hc => h.2.1 c (List.mem_of_mem_filter hc), ?_⟩
  exact Nat.le_trans (List.length_filter_le _ _) h.2.2

theorem Screen.remove_pointer (x : Screen) (g : Cue → Bool) (hp : x.pointerInStep) : (x.removeCues g).pointerInStep := by
  intro ht
  obtain ⟨p, he, hn, h1, h2⟩ := hp ht
  have ht' : x.tracking = true := ht
  have hptr : (x.removeCues g).pointer = ((x.cues.take x.pointer).filter fun c => !g c).length := by
    simp only [Screen.removeCues, Screen.pointerAfterDelete, ht', if_true]
    have hsum : ((x.cues.take x.pointer).filter g).length + ((x.cues.take x.pointer).filter fun c => !g c).length = (x.cues.take x.pointer).length := by
      have := List.length_eq_length_filter_add (l := x.cues.take x.pointer) g
      omega
    rw [List.length_take, Nat.min_eq_left hn] at hsum
    omega
  have hL : (x.removeCues g).cues = (x.cues.take x.pointer).filter (fun c => !g c) ++ (x.cues.drop x.pointer).filter (fun c => !g c) := by
    show x.cues.filter _ = _
    rw [← List.filter_append, List.take_append_drop]
  refine ⟨p, he, ?_, ?_, ?_⟩
  · rw [hptr, hL, List.length_append]; omega
  · intro c hc
    rw [hptr, hL, List.take_left] at hc
    exact h1 c (List.mem_of_mem_filter hc)
  · intro c hc
    rw [hptr, hL, List.drop_left] at hc
    exact h2 c (List.mem_of_mem_filter hc)

theorem Retags.same {f : Cue → Cue} (hf : Retags f) (c : Cue) : (f c).pos = c.pos ∧ (f c).id = c.id ∧ (f c).number = c.number := by
  have := hf c
  have h1 := congrArg Cue.pos this
  have h2 := congrArg Cue.id this
  have h3 := congrArg Cue.number this
  exact ⟨h1, h2, h3⟩

theorem Screen.retag_ordered (x : Screen) (f : Cue → Cue) (hf : Retags f) (h : x.listOrdered) : ({ x with cues := x.cues.map f } : Screen).listOrdered := by
  refine ⟨?_, ?_, by simpa using h.2.2⟩
  · show (x.cues.map f).Pairwise _
    rw [List.pairwise_map]
    refine h.1.imp ?_
    intro a b hab
    obtain ⟨a1, a2, a3⟩ := Retags.same hf a
    obtain ⟨b1, b2, b3⟩ := Retags.same hf b
    simp only [Cue.before, a1, a2, a3, b1, b2, b3] at hab ⊢
    exact hab
  · intro c hc
    obtain ⟨d, hd, rfl⟩ := List.mem_map.mp hc
    rw [(Retags.same hf d).2.2]; exact h.2.1 d hd

theorem Screen.retag_pointer (x : Screen) (f : Cue → Cue) (hf : Retags f) (h : x.pointerInStep) : ({ x with cues := x.cues.map f } : Screen).pointerInStep := by
  intro ht
  obtain ⟨p, he, hn, h1, h2⟩ := h ht
  refine ⟨p, he, by simpa using hn, ?_, ?_⟩
  · intro c hc
    rw [show ({ x with cues := x.cues.map f } : Screen).cues = x.cues.map f from rfl, ← List.map_take] at hc
    obtain ⟨d, hd, rfl⟩ := List.mem_map.mp hc
    rw [(Retags.same hf d).1]; exact h1 d hd
  · intro c hc
    rw [show ({ x with cues := x.cues.map f } : Screen).cues = x.cues.map f from rfl, ← List.map_drop] at hc
    obtain ⟨d, hd, rfl⟩ := List.mem_map.mp hc
    rw [(Retags.same hf d).1]; exact h2 d hd

theorem Screen.arrive_pointer (x : Screen) (p : Position) (h : x.listOrdered) : (x.arrive p).pointerInStep := by
  intro _
  have hs := insertIndex_splits x.cues p h.1
  exact ⟨p, rfl, by unfold Screen.arrive pointerFor; exact (List.takeWhile_sublist _).length_le, hs.1, hs.2⟩

theorem State.setScreen_cues (s : State) (i : Fin 12) (y : Screen) (h : s.cuesInOrder) (ho : y.listOrdered) (hp : y.pointerInStep) (hl : y.cues.length ≤ (s.screen i).cues.length) :
   (s.setScreen i y).cuesInOrder := by
  refine ⟨fun j => ?_, ?_⟩
  · rw [State.screen_setScreen]; split
    · exact ⟨ho, hp⟩
    · exact h.1 j
  · refine Nat.le_trans (List.sum_le_sum ?_) h.2
    intro j _
    rw [State.screen_setScreen]; split
    · rename_i e; subst e; exact hl
    · exact Nat.le_refl _

theorem sum_screens_set (v : Fin 12 → Nat) (i : Fin 12) (n : Nat) : ((List.finRange 12).map fun j => if j = i then n else v j).sum + v i = ((List.finRange 12).map v).sum + n := by
  have h12 : List.finRange 12 = [0,1,2,3,4,5,6,7,8,9,10,11] := rfl
  rw [h12]
  fin_cases i <;> simp <;> omega

theorem State.insert_cues (s : State) (i : Fin 12) (c : Cue) (hc : s.Insertable i c) (h : s.cuesInOrder) : (s.onScreen i fun x => x.insert c).cuesInOrder := by
  have hl : (s.screen i).cues.length < 256 := hc.list
  refine ⟨fun j => ?_, ?_⟩
  · unfold State.onScreen
    rw [State.screen_setScreen]; split
    · exact ⟨Screen.insert_ordered _ _ (h.1 i).1 hc.fresh hl, Screen.insert_pointer _ _ (h.1 i).1 (h.1 i).2 hc.fresh hl⟩
    · exact h.1 j
  · have hp := hc.pool
    unfold State.freeCues at hp
    have hlt : ((List.finRange 12).map fun i => (s.screen i).cues.length).sum < 1024 := by
      have : Config.poolSize = 1024 := rfl
      omega
    have heq : ∀ j, ((s.onScreen i fun x => x.insert c).screen j).cues.length = if j = i then (s.screen i).cues.length + 1 else (s.screen j).cues.length := by
      intro j
      unfold State.onScreen
      rw [State.screen_setScreen]; split
      · show (insertCue _ _).length = _
        unfold insertCue
        have hcc := congrArg List.length (List.take_append_drop (insertIndex (s.screen i).cues c.pos) (s.screen i).cues)
        rw [List.length_append] at hcc
        rw [List.length_append, List.length_cons]; dsimp only; omega
      · rfl
    simp only [heq]
    have := sum_screens_set (fun j => (s.screen j).cues.length) i ((s.screen i).cues.length + 1)
    omega

end Sys2Proof.Machine
end

