-- ==== Sys2Proof/Laws/Lane.lean ====
section
/-! SUPPORT. What the arrival of a message does to a state that can take it at once, and to one that can not (R176). -/

namespace Sys2Proof.Machine

variable (s : State) (m : Message)

theorem State.takeHoldBuffer_none (h : s.holdBuf = none) : s.takeHoldBuffer = s := by
  unfold State.takeHoldBuffer
  rw [h]

theorem State.takeHoldBuffer_held (h : s.held ≠ none) : s.takeHoldBuffer = s := by
  unfold State.takeHoldBuffer
  split
  · rw [if_neg]
    simp [Option.isNone_iff_eq_none, h]
  · rfl

theorem State.canTake_iff : s.canTake = true ↔ s.held = none ∧ s.holdBuf = none ∧ s.replies.length < 8 := by
  unfold State.canTake
  rw [Bool.and_eq_true, Bool.and_eq_true, decide_eq_true_iff, Option.isNone_iff_eq_none, Option.isNone_iff_eq_none,
    and_assoc]
  rfl

theorem State.place_ready (h : s.ready) : s.place m = s.takeMessage m := by
  unfold State.place
  rw [State.takeHoldBuffer_none s h.2.1]
  exact if_pos ((State.canTake_iff s).mpr h)

/-- A message of at most 240 body bytes that arrives at a ready state is taken at once. -/
theorem State.submit_ready (h : s.ready) (hb : m.body.length ≤ 240) : s.submit m = s.takeMessage m := by
  unfold State.submit
  rw [if_neg (by omega), State.place_ready s m h]

/-- A message of a kind and length the table admits goes to its request. -/
theorem State.takeMessage_of (k : RequestKind) (hk : kindOf m.kind = some k) (ha : k.admits m.body.length = true) :
    s.takeMessage m = s.carryOut k m := by
  unfold State.takeMessage
  rw [hk]
  simp [ha]

theorem State.submit_request (h : s.ready) (hb : m.body.length ≤ 240) (k : RequestKind) (hk : kindOf m.kind = some k)
    (ha : k.admits m.body.length = true) : s.submit m = s.carryOut k m := by
  rw [State.submit_ready s m h hb, State.takeMessage_of s m k hk ha]

/-- A reply is one more at the tail of the queue. -/
theorem State.reply_eq (v : Verdict) (data : List Byte) :
    s.reply m v data = s.replied ⟨m.kind, m.tag, m.screen, v, false, data, true⟩ := rfl

theorem State.answer_eq (v : Verdict) (tr : Bool) (data : List Byte) :
    s.answer m v tr data = s.replied ⟨m.kind, m.tag, m.screen, v, tr, data, true⟩ := rfl

theorem State.refuse_eq (v : Verdict) : s.refuse m v = s.replied ⟨m.kind, m.tag, m.screen, v, false, [], true⟩ := rfl

end Sys2Proof.Machine
end

