-- ==== Sys2Proof/Laws/Memory.lean ====
section
/-! SUPPORT. The canonical form of the two stores and read after write. -/

namespace Sys2Proof.Machine

variable (d v : Byte) (m : Memory) (x y n : Nat) (data : List Byte)

theorem Memory.risesFrom_mono (lo hi : Nat) (h : hi ≤ lo) (hm : Memory.risesFrom lo m = true) :
    Memory.risesFrom hi m = true := by
  cases m with
  | nil => rfl
  | cons c rest =>
    simp only [Memory.risesFrom, Bool.and_eq_true, decide_eq_true_eq] at hm ⊢
    exact ⟨by omega, hm.2⟩

theorem Memory.risesFrom_write (lo : Nat) (hlo : lo ≤ x) (hm : Memory.risesFrom lo m = true) :
    Memory.risesFrom lo (m.write d x v) = true := by
  induction m generalizing lo with
  | nil => by_cases hv : v = d <;> simp [Memory.write, Memory.risesFrom, hv, hlo]
  | cons c rest ih =>
    obtain ⟨a, b⟩ := c
    simp only [Memory.risesFrom, Bool.and_eq_true, decide_eq_true_eq] at hm
    simp only [Memory.write]
    split
    · split <;> simp only [Memory.risesFrom, Bool.and_eq_true, decide_eq_true_eq]
      · exact hm
      · exact ⟨hlo, by omega, hm.2⟩
    · split
      · split
        · exact Memory.risesFrom_mono _ _ _ (by omega) hm.2
        · simpa only [Memory.risesFrom, Bool.and_eq_true, decide_eq_true_eq] using hm
      · simp only [Memory.risesFrom, Bool.and_eq_true, decide_eq_true_eq]
        exact ⟨hm.1, ih (a + 1) (by omega) hm.2⟩

theorem Memory.listed_write (hm : (m.all fun c => decide (c.2 ≠ d)) = true) :
    ((m.write d x v).all fun c => decide (c.2 ≠ d)) = true := by
  induction m with
  | nil => by_cases hv : v = d <;> simp [Memory.write, hv]
  | cons c rest ih =>
    obtain ⟨a, b⟩ := c
    simp only [List.all_cons, Bool.and_eq_true] at hm
    simp only [Memory.write]
    split
    · split
      · simp only [List.all_cons, Bool.and_eq_true]; exact hm
      · simp only [List.all_cons, Bool.and_eq_true]; exact ⟨by simpa, hm⟩
    · split
      · split
        · exact hm.2
        · simp only [List.all_cons, Bool.and_eq_true]; exact ⟨by simpa, hm.2⟩
      · simp only [List.all_cons, Bool.and_eq_true]; exact ⟨hm.1, ih hm.2⟩

/-- A write keeps the canonical form. -/
theorem Memory.wf_write (hm : Memory.wf d m = true) : Memory.wf d (m.write d x v) = true := by
  simp only [Memory.wf, Bool.and_eq_true] at hm ⊢
  exact ⟨Memory.risesFrom_write d v m x 0 (Nat.zero_le _) hm.1, Memory.listed_write d v m x hm.2⟩

/-- A run of writes keeps the canonical form. -/
theorem Memory.wf_writeAll (hm : Memory.wf d m = true) : Memory.wf d (m.writeAll d x data) = true := by
  induction data generalizing m x with
  | nil => exact hm
  | cons b rest ih => exact ih (m.write d x b) (x + 1) (Memory.wf_write d b m x hm)

theorem Memory.read_below (lo : Nat) (h : x < lo) (hm : Memory.risesFrom lo m = true) : m.read d x = d := by
  induction m generalizing lo with
  | nil => rfl
  | cons c rest ih =>
    obtain ⟨a, b⟩ := c
    simp only [Memory.risesFrom, Bool.and_eq_true, decide_eq_true_eq] at hm
    have : x ≠ a := by omega
    simp only [Memory.read, if_neg this]
    exact ih (a + 1) (by omega) hm.2

/-- What a read gives after a write: the byte written there, else what it gave before. -/
theorem Memory.read_write (hm : Memory.wf d m = true) : (m.write d x v).read d y = if y = x then v else m.read d y := by
  simp only [Memory.wf, Bool.and_eq_true] at hm
  have hr := hm.1
  clear hm
  revert hr
  suffices ∀ lo, Memory.risesFrom lo m = true → (m.write d x v).read d y = if y = x then v else m.read d y from this 0
  induction m with
  | nil =>
    intro lo _
    by_cases hv : v = d
    · subst hv; simp [Memory.write, Memory.read]
    · simp [Memory.write, Memory.read, hv]
  | cons c rest ih =>
    intro lo hm
    obtain ⟨a, b⟩ := c
    simp only [Memory.risesFrom, Bool.and_eq_true, decide_eq_true_eq] at hm
    simp only [Memory.write]
    by_cases hxa : x < a
    · rw [if_pos hxa]
      by_cases hv : v = d
      · rw [if_pos hv]
        by_cases hy : y = x
        · subst hy hv
          have : y ≠ a := by omega
          simp only [Memory.read, if_neg this, if_pos]
          exact Memory.read_below _ _ _ (a + 1) (by omega) hm.2
        · simp [hy]
      · rw [if_neg hv]
        by_cases hy : y = x
        · simp [Memory.read, hy]
        · simp [Memory.read, hy]
    · rw [if_neg hxa]
      by_cases hx : x = a
      · subst hx
        rw [if_pos rfl]
        by_cases hv : v = d
        · rw [if_pos hv]
          by_cases hy : y = x
          · subst hy hv
            simp only [if_pos]
            exact Memory.read_below _ _ _ (y + 1) (by omega) hm.2
          · simp [Memory.read, hy]
        · rw [if_neg hv]
          by_cases hy : y = x <;> simp [Memory.read, hy]
      · rw [if_neg hx]
        by_cases hy : y = a
        · subst hy
          simp [Memory.read, Ne.symm hx]
        · simp only [Memory.read, if_neg hy]
          exact ih (a + 1) hm.2

/-- What a read gives after a run of writes. -/
theorem Memory.read_writeAll (hm : Memory.wf d m = true) :
    (m.writeAll d x data).read d y = if x ≤ y then (data[y - x]?).getD (m.read d y) else m.read d y := by
  induction data generalizing m x with
  | nil => simp [Memory.writeAll]
  | cons b rest ih =>
    simp only [Memory.writeAll]
    rw [ih (m.write d x b) (x + 1) (Memory.wf_write d b m x hm), Memory.read_write d b m x y hm]
    by_cases h1 : y = x
    · subst h1; simp
    · by_cases h2 : x + 1 ≤ y
      · have h3 : y - x = (y - (x + 1)) + 1 := by omega
        rw [if_pos h2, if_neg h1, if_pos (show x ≤ y by omega), h3, List.getElem?_cons_succ]
      · have : ¬ x ≤ y := by omega
        simp [h1, h2, this]

/-- Outside a run of writes every read gives what it gave before. -/
theorem Memory.read_writeAll_outside (hm : Memory.wf d m = true) (h : y < x ∨ x + data.length ≤ y) :
    (m.writeAll d x data).read d y = m.read d y := by
  rw [Memory.read_writeAll d m x y data hm]
  split
  · rename_i hle
    have : data[y - x]? = none := List.getElem?_eq_none (by omega)
    simp [this]
  · rfl

@[simp] theorem Memory.length_readAll : (m.readAll d x n).length = n := by simp [Memory.readAll]

end Sys2Proof.Machine
end

