-- ==== Sys2Proof/Laws/Period.lean ====
section
/-! SUPPORT. What the end of a block period and the opening of the next do to the period's own fields, to the lock machines
and to the trackers; what a block taken and an absent period do to a tracker and to what it hands on. -/

namespace Sys2Proof.Machine

/-! ## Frames of the period's operations -/

/-- The window's three counts, the period's lock state, its being open, and its number. -/
def ClockIs (w a n : Nat) (l o : Bool) (q : Half) (t : State) : Prop :=
  t.windowCount = w ∧ t.integrityAcc = a ∧ t.integrityCount = n ∧ t.periodLocked = l ∧ t.outSeq = q ∧ t.periodOpen = o

/-- The same but for the period's being open. -/
def CountsAre (w a n : Nat) (l : Bool) (q : Half) (t : State) : Prop :=
  t.windowCount = w ∧ t.integrityAcc = a ∧ t.integrityCount = n ∧ t.periodLocked = l ∧ t.outSeq = q

/-- The lock machines of both ports and the LOCK input. -/
def PortsAre (p q : LockMachine) (l : Bool) (t : State) : Prop := t.prog = p ∧ t.sense = q ∧ t.lockInput = l

/-- The trackers of the twelve screens. -/
def TrackersAre (f : Fin 12 → Tracker) (t : State) : Prop := ∀ j, (t.screen j).tracker = f j

theorem keeps_ports (p q : LockMachine) (l : Bool) : KeepsClock (PortsAre p q l) where
  screen := fun _ _ _ _ h => h
  source := fun _ i _ _ h => by cases i <;> exact h
  defer := fun _ i _ _ h => by cases i <;> exact h
  alarmUpdate := fun _ _ _ h => h
  alarmAdd := fun _ _ _ _ _ h => h
  lines := fun _ _ h => h
  slots := fun _ _ h => h
  refreshes := fun _ _ h => h
  portTo := fun _ _ _ _ h => h
  portFree := fun _ h => h
  portAge := fun _ h => h
  commitUnit := fun _ _ _ _ _ h => h
  markAdd := fun _ _ _ h => h
  arrive := fun _ _ _ h => h
  cache := fun _ _ h => h
  dropRefresh := fun _ _ h => h
  engineWork := fun _ _ h => h
  scan := fun _ _ h => h
  scanBuf := fun _ _ h => h
  commitWaits := fun _ _ _ _ _ _ h => h
  commitNext := fun _ _ _ h => h
  commitEnds := fun _ _ _ _ _ h => h
  commitBegin := fun _ _ _ _ _ h => h
  commitEnded := fun _ _ h => h
  device := fun _ _ h => h
  held := fun _ _ h => h
  writeStaging := fun _ _ _ h => h
  writeArray := fun _ _ _ h => h
  insert := fun _ _ _ _ h => h
  remove := fun _ _ _ h => h
  clear := fun _ _ h => h
  restartCues := fun _ _ h => h
  retag := fun _ _ _ _ h => h
  lock := fun _ _ _ h => h
  lockLost := fun _ _ h => h
  stageClear := fun _ h => h
  replyChange := fun _ _ _ h => h
  holdBuf := fun _ _ h => h
  overrun := fun _ _ h => h
  crcReject := fun _ _ h => h
  asm := fun _ _ h => h
  laneLoss := fun _ _ h => h
  replyAdd := fun _ _ _ h => h
  alarmLeaves := fun _ _ _ _ h => h
  alarmRefill := fun _ _ _ _ i _ _ _ h => by cases i <;> exact h
  markLeaves := fun _ _ _ _ h => h
  noticeLeaves := fun _ _ _ _ h => h
  replyLeaves := fun _ _ _ _ h => h
  integrityAcc := fun _ _ h => h
  integrityCount := fun _ _ h => h
  windowCount := fun _ _ h => h
  outSeq := fun _ _ h => h
  periodOpen := fun _ _ h => h
  periodLocked := fun _ _ h => h
  periodStarting := fun _ _ h => h
  feedOut := fun _ _ h => h
  returnOut := fun _ _ h => h
  tx := fun _ _ h => h

theorem keeps_ports_tracker (p q : LockMachine) (l : Bool) : KeepsTracker (PortsAre p q l) where
  screen := fun _ _ _ _ h => h
  track := fun _ _ _ _ h => h

/-- A view of every screen is kept where a screen is replaced by one with the same view. -/
theorem view_set {α : Type} (v : Screen → α) (f : Fin 12 → α) {s : State} {i : Fin 12} {y : Screen}
    (h : ∀ j, v (s.screen j) = f j) (hy : v y = v (s.screen i)) (j : Fin 12) : v ((s.setScreen i y).screen j) = f j := by
  rw [State.screen_setScreen]
  split
  · rename_i e; subst e; exact hy.trans (h _)
  · exact h j

/-- A view of the screens that only the trackers and what they handed decide is kept by everything but the trackers. -/
theorem keeps_view {α : Type} (v : Screen → α) (hv : ∀ x y : Screen, y.tracker = x.tracker → y.sent = x.sent → v y = v x)
    (f : Fin 12 → α) : KeepsClock (fun t => ∀ j, v (t.screen j) = f j) where
  screen := fun _ _ _ hy h => view_set v f h (hv _ _ hy.tracker hy.sent)
  source := fun _ i _ _ h => by cases i <;> (first | exact h | exact view_set v f h (hv _ _ rfl rfl))
  defer := fun _ i _ _ h => by cases i <;> (first | exact h | exact view_set v f h (hv _ _ rfl rfl))
  alarmUpdate := fun _ _ _ h => h
  alarmAdd := fun _ _ _ _ _ h => h
  lines := fun _ _ h => h
  slots := fun _ _ h => h
  refreshes := fun _ _ h => h
  portTo := fun _ _ _ _ h => h
  portFree := fun _ h => h
  portAge := fun _ h => h
  commitUnit := fun _ _ _ _ _ h => h
  markAdd := fun _ _ _ h => h
  arrive := fun _ _ _ h => view_set v f h (hv _ _ rfl rfl)
  cache := fun _ _ h => h
  dropRefresh := fun _ _ h => h
  engineWork := fun _ _ h => h
  scan := fun _ _ h => h
  scanBuf := fun _ _ h => h
  commitWaits := fun _ _ _ _ _ _ h => h
  commitNext := fun _ _ _ h => h
  commitEnds := fun _ _ _ _ _ h => h
  commitBegin := fun _ _ _ _ _ h => h
  commitEnded := fun _ _ h => h
  device := fun _ _ h => h
  held := fun _ _ h => h
  writeStaging := fun _ _ _ h => h
  writeArray := fun _ _ _ h => h
  insert := fun _ _ _ _ h => view_set v f h (hv _ _ rfl rfl)
  remove := fun _ _ _ h => view_set v f h (hv _ _ rfl rfl)
  clear := fun _ _ h => view_set v f h (hv _ _ rfl rfl)
  restartCues := fun _ _ h => view_set v f h (hv _ _ rfl rfl)
  retag := fun _ _ _ _ h => view_set v f h (hv _ _ rfl rfl)
  lock := fun _ _ _ h => view_set v f h (hv _ _ rfl rfl)
  lockLost := fun _ _ h => h
  stageClear := fun _ h => h
  replyChange := fun _ _ _ h => h
  holdBuf := fun _ _ h => h
  overrun := fun _ _ h => h
  crcReject := fun _ _ h => h
  asm := fun _ _ h => h
  laneLoss := fun _ _ h => h
  replyAdd := fun _ _ _ h => h
  alarmLeaves := fun _ _ _ _ h => h
  alarmRefill := fun _ _ _ _ i _ _ _ h => by cases i <;> (first | exact h | exact view_set v f h (hv _ _ rfl rfl))
  markLeaves := fun _ _ _ _ h => h
  noticeLeaves := fun _ _ _ _ h => h
  replyLeaves := fun _ _ _ _ h => h
  integrityAcc := fun _ _ h => h
  integrityCount := fun _ _ h => h
  windowCount := fun _ _ h => h
  outSeq := fun _ _ h => h
  periodOpen := fun _ _ h => h
  periodLocked := fun _ _ h => h
  periodStarting := fun _ _ h => h
  feedOut := fun _ _ h => h
  returnOut := fun _ _ h => h
  tx := fun _ _ h => h

theorem keeps_trackers (f : Fin 12 → Tracker) : KeepsClock (TrackersAre f) :=
  keeps_view Screen.tracker (fun _ _ h _ => h) f

theorem keeps_sent (f : Fin 12 → Fin 16 × Byte × List (List Int)) : KeepsClock (fun t => ∀ j, (t.screen j).sent = f j) :=
  keeps_view Screen.sent (fun _ _ _ h => h) f

theorem keeps_clock (w a n : Nat) (l o : Bool) (q : Half) : KeepsLane (ClockIs w a n l o q) where
  screen := fun _ _ _ _ h => h
  source := fun _ i _ _ h => by cases i <;> exact h
  defer := fun _ i _ _ h => by cases i <;> exact h
  alarmUpdate := fun _ _ _ h => h
  alarmAdd := fun _ _ _ _ _ h => h
  slots := fun _ _ h => h
  refreshes := fun _ _ h => h
  portTo := fun _ _ _ _ h => h
  portFree := fun _ h => h
  portAge := fun _ h => h
  commitUnit := fun _ _ _ _ _ h => h
  lines := fun _ _ h => h
  arrive := fun _ _ _ h => h
  markAdd := fun _ _ _ h => h
  cache := fun _ _ h => h
  dropRefresh := fun _ _ h => h
  engineWork := fun _ _ h => h
  scan := fun _ _ h => h
  scanBuf := fun _ _ h => h
  commitWaits := fun _ _ _ _ _ _ h => h
  commitNext := fun _ _ _ h => h
  commitEnds := fun _ _ _ _ _ h => h
  commitBegin := fun _ _ _ _ _ h => h
  commitEnded := fun _ _ h => h
  device := fun _ _ h => h
  held := fun _ _ h => h
  replyChange := fun _ _ _ h => h
  writeStaging := fun _ _ _ h => h
  writeArray := fun _ _ _ h => h
  insert := fun _ _ _ _ h => h
  remove := fun _ _ _ h => h
  clear := fun _ _ h => h
  restartCues := fun _ _ h => h
  retag := fun _ _ _ _ h => h
  lock := fun _ _ _ h => h
  lockLost := fun _ _ h => h
  stageClear := fun _ h => h
  holdBuf := fun _ _ h => h
  overrun := fun _ _ h => h
  crcReject := fun _ _ h => h
  asm := fun _ _ h => h
  laneLoss := fun _ _ h => h
  replyAdd := fun _ _ _ h => h

theorem keeps_clock_tracker (w a n : Nat) (l o : Bool) (q : Half) : KeepsTracker (ClockIs w a n l o q) where
  screen := fun _ _ _ _ h => h
  track := fun _ _ _ _ h => h

theorem keeps_counts (w a n : Nat) (l : Bool) (q : Half) : KeepsLane (CountsAre w a n l q) where
  screen := fun _ _ _ _ h => h
  source := fun _ i _ _ h => by cases i <;> exact h
  defer := fun _ i _ _ h => by cases i <;> exact h
  alarmUpdate := fun _ _ _ h => h
  alarmAdd := fun _ _ _ _ _ h => h
  slots := fun _ _ h => h
  refreshes := fun _ _ h => h
  portTo := fun _ _ _ _ h => h
  portFree := fun _ h => h
  portAge := fun _ h => h
  commitUnit := fun _ _ _ _ _ h => h
  lines := fun _ _ h => h
  arrive := fun _ _ _ h => h
  markAdd := fun _ _ _ h => h
  cache := fun _ _ h => h
  dropRefresh := fun _ _ h => h
  engineWork := fun _ _ h => h
  scan := fun _ _ h => h
  scanBuf := fun _ _ h => h
  commitWaits := fun _ _ _ _ _ _ h => h
  commitNext := fun _ _ _ h => h
  commitEnds := fun _ _ _ _ _ h => h
  commitBegin := fun _ _ _ _ _ h => h
  commitEnded := fun _ _ h => h
  device := fun _ _ h => h
  held := fun _ _ h => h
  replyChange := fun _ _ _ h => h
  writeStaging := fun _ _ _ h => h
  writeArray := fun _ _ _ h => h
  insert := fun _ _ _ _ h => h
  remove := fun _ _ _ h => h
  clear := fun _ _ h => h
  restartCues := fun _ _ h => h
  retag := fun _ _ _ _ h => h
  lock := fun _ _ _ h => h
  lockLost := fun _ _ h => h
  stageClear := fun _ h => h
  holdBuf := fun _ _ h => h
  overrun := fun _ _ h => h
  crcReject := fun _ _ h => h
  asm := fun _ _ h => h
  laneLoss := fun _ _ h => h
  replyAdd := fun _ _ _ h => h


/-! ## Trackers -/

/-- What a screen's absence makes of its tracker (R17). -/
def Tracker.absent (t : Tracker) : Tracker := ({ Screen.reset with tracker := t }.absentUpdate).tracker

theorem Screen.absentUpdate_tracker (x : Screen) : x.absentUpdate.tracker = x.tracker.absent := by
  unfold Tracker.absent Screen.absentUpdate
  dsimp only
  split <;> (try rfl)
  split <;> rfl

/-- A loop of screens that changes each screen's tracker on its own. -/
theorem State.forScreens_tracker (g : Fin 12 → Tracker → Tracker) (u : Fin 12 → State → State)
    (h1 : ∀ s i, ((u i s).screen i).tracker = g i (s.screen i).tracker)
    (h2 : ∀ s i j, j ≠ i → ((u i s).screen j).tracker = (s.screen j).tracker) (s : State) (j : Fin 12) :
    ((s.forScreens u).screen j).tracker = g j (s.screen j).tracker := by
  have key : ∀ l : List (Fin 12), l.Nodup → ∀ (s : State), ∀ j, ((l.foldl (fun t i => u i t) s).screen j).tracker =
      if j ∈ l then g j (s.screen j).tracker else (s.screen j).tracker := by
    intro l
    induction l with
    | nil => intro _ s j; simp
    | cons a l ih =>
      intro hn s j
      rw [List.nodup_cons] at hn
      rw [List.foldl_cons, ih hn.2]
      by_cases hj : j = a
      · subst hj; simp [hn.1, h1]
      · simp [hj, h2 _ _ _ hj]
  have := key (List.finRange 12) (List.nodup_finRange 12) s j
  simp only [List.mem_finRange, if_true] at this
  exact this

/-- A tracker update writes the tracker of its screen and leaves the other screens. -/
theorem State.trackScreen_tracker (s : State) (i : Fin 12) (f : Screen → Screen) (tracks : List (List Int)) :
    ((s.trackScreen i f tracks).screen i).tracker = (f (s.screen i)).tracker ∧
      ∀ j, j ≠ i → (s.trackScreen i f tracks).screen j = s.screen j := by
  unfold State.trackScreen
  dsimp only
  split
  · constructor
    · simp [Screen.handOver]
    · intro j hj; rw [State.screen_setScreen_other _ _ _ _ hj]
  · unfold State.rebuild
    constructor
    · rw [State.screen_onScreen_same, State.screen_setScreen_same]
      unfold Screen.rebuilt; rw [Screen.mapFeeds_tracker]; rfl
    · intro j hj
      rw [State.screen_onScreen_other _ _ _ _ hj, State.screen_setScreen_other _ _ _ _ hj]

/-- An absent period makes every tracker absent for it, and leaves nothing else to the trackers. -/
theorem State.absentPeriod_tracker (s : State) (j : Fin 12) :
    (s.absentPeriod.screen j).tracker = (s.screen j).tracker.absent := by
  unfold State.absentPeriod
  apply State.forScreens_tracker (fun _ => Tracker.absent)
  · intro s i; unfold State.absentScreen; rw [(State.trackScreen_tracker s i _ _).1, Screen.absentUpdate_tracker]
  · intro s i j hj; unfold State.absentScreen; rw [(State.trackScreen_tracker s i _ _).2 j hj]

/-- A block's descriptors update every tracker (R16, R17). -/
theorem State.describe_tracker (s : State) (l : List Byte) (j : Fin 12) :
    ((s.forScreens fun i t => t.describeScreen l i).screen j).tracker = match descriptorOf l j.val with
      | some d => ((s.screen j).describe d).tracker
      | none => (s.screen j).absentUpdate.tracker := by
  have h := State.forScreens_tracker
    (fun i t => match descriptorOf l i.val with
      | some d => ({ Screen.reset with tracker := t }.describe d).tracker
      | none => t.absent) (fun i t => t.describeScreen l i) (by
        intro s i; unfold State.describeScreen; dsimp only
        cases descriptorOf l i.val
        · unfold State.absentScreen; rw [(State.trackScreen_tracker s i _ _).1, Screen.absentUpdate_tracker]
        · dsimp only; rw [(State.trackScreen_tracker s i _ _).1]; rfl) (by
        intro s i k hk; unfold State.describeScreen
        split
        · rw [(State.trackScreen_tracker s i _ _).2 k hk]
        · unfold State.absentScreen; rw [(State.trackScreen_tracker s i _ _).2 k hk]) s j
  rw [h]
  cases descriptorOf l j.val
  · exact (Screen.absentUpdate_tracker _).symm
  · rfl

/-- A tracker update hands the code and mask it leaves, with the samples given (R18). -/
theorem State.trackScreen_sent (s : State) (i : Fin 12) (f : Screen → Screen) (tracks : List (List Int)) :
    ((s.trackScreen i f tracks).screen i).sent =
      ((f (s.screen i)).tracker.code, (f (s.screen i)).tracker.mask, tracks) := by
  unfold State.trackScreen
  dsimp only
  split
  · rw [State.screen_setScreen_same]; rfl
  · unfold State.rebuild
    rw [State.screen_onScreen_same, State.screen_setScreen_same]
    rfl

/-- What every screen hands on from a block: the samples of its descriptor, zeros where it has none (R18). -/
theorem State.describe_sent (s : State) (l : List Byte) (j : Fin 12) :
    let u := s.forScreens fun i t => t.describeScreen l i
    (u.screen j).sent = ((u.screen j).tracker.code, (u.screen j).tracker.mask,
      if (descriptorOf l j.val).isSome then tracksOf l j.val else zeroTracks) := by
  have one : ∀ (s : State) (i : Fin 12), ((s.describeScreen l i).screen i).sent =
      (((s.describeScreen l i).screen i).tracker.code, ((s.describeScreen l i).screen i).tracker.mask,
        if (descriptorOf l i.val).isSome then tracksOf l i.val else zeroTracks) := by
    intro s i
    unfold State.describeScreen
    split
    · rename_i h; rw [State.trackScreen_sent, (State.trackScreen_tracker s i _ _).1, h]; rfl
    · rename_i h; unfold State.absentScreen; rw [State.trackScreen_sent, (State.trackScreen_tracker s i _ _).1, h]; rfl
  have other : ∀ (s : State) (i k : Fin 12), k ≠ i → (s.describeScreen l i).screen k = s.screen k := by
    intro s i k hk
    unfold State.describeScreen
    split
    · exact (State.trackScreen_tracker s i _ _).2 k hk
    · exact (State.trackScreen_tracker s i _ _).2 k hk
  have key : ∀ m : List (Fin 12), m.Nodup → ∀ s : State, j ∈ m → let u := m.foldl (fun t i => t.describeScreen l i) s
      (u.screen j).sent = ((u.screen j).tracker.code, (u.screen j).tracker.mask,
        if (descriptorOf l j.val).isSome then tracksOf l j.val else zeroTracks) := by
    intro m
    induction m with
    | nil => intro _ s h; cases h
    | cons a m ih =>
      intro hn s h
      rw [List.nodup_cons] at hn
      rw [List.foldl_cons]
      by_cases ha : j = a
      · subst ha
        have out : ∀ (m : List (Fin 12)) (s : State), j ∉ m →
            (m.foldl (fun t i => t.describeScreen l i) s).screen j = s.screen j := by
          intro m
          induction m with
          | nil => intro s _; rfl
          | cons b m ih2 =>
            intro s hb
            rw [List.mem_cons, not_or] at hb
            rw [List.foldl_cons, ih2 _ hb.2, other _ _ _ hb.1]
        dsimp only
        rw [out _ _ hn.1]
        exact one s j
      · exact ih hn.2 _ ((List.mem_cons.mp h).resolve_left ha)
  exact key (List.finRange 12) (List.nodup_finRange 12) s (List.mem_finRange j)

/-! ## The period's fields -/

/-- What is settled before a period opens, on the period's own fields: the window's end where it is due (R10). -/
theorem State.settle_clock (s : State) :
    ClockIs (if 1200 ≤ s.windowCount then 0 else s.windowCount) (if 1200 ≤ s.windowCount then 0 else s.integrityAcc)
      (if 1200 ≤ s.windowCount then s.integrityAcc else s.integrityCount) s.periodLocked s.periodOpen s.outSeq s.settle := by
  have key : ∀ w a n u, ClockIs w a n s.periodLocked s.periodOpen s.outSeq u →
      ClockIs w a n s.periodLocked s.periodOpen s.outSeq
        ((u.forScreens fun i t => t.takeMuteZero i).overdueUnit).takeHoldBuffer := fun w a n u hu =>
    State.takeHoldBuffer_keeps (keeps_clock w a n s.periodLocked s.periodOpen s.outSeq)
      (State.overdueUnit_keeps (keeps_clock w a n s.periodLocked s.periodOpen s.outSeq).toKeepsStore
        (State.forScreens_keeps (fun i _ hv => State.takeMuteZero_keeps (i := i)
          (keeps_clock w a n s.periodLocked s.periodOpen s.outSeq).toKeepsAlarms hv) hu))
  unfold State.settle State.windowDue
  have hw : Config.windowPeriods = 1200 := rfl
  rw [hw]
  by_cases h : 1200 ≤ s.windowCount
  · simp only [h, decide_true, if_true]
    exact key _ _ _ _ ⟨rfl, rfl, rfl, rfl, rfl, rfl⟩
  · simp only [h, decide_false, if_false]
    exact key _ _ _ _ ⟨rfl, rfl, rfl, rfl, rfl, rfl⟩

/-- What the opening of a period does to the period's own fields (R1, R2, R10). -/
theorem State.openPeriod_clock (s : State) (q : Option Half) (b : Bool) :
    ClockIs (if 1200 ≤ s.windowCount then 0 else s.windowCount) (if 1200 ≤ s.windowCount then 0 else s.integrityAcc)
      (if 1200 ≤ s.windowCount then s.integrityAcc else s.integrityCount) b true (q.getD (s.outSeq + 1))
      (s.openPeriod q b) := by
  have h := State.settle_clock s
  unfold State.openPeriod
  revert h
  generalize s.settle = v
  intro h
  have hv : ClockIs (if 1200 ≤ s.windowCount then 0 else s.windowCount)
      (if 1200 ≤ s.windowCount then 0 else s.integrityAcc)
      (if 1200 ≤ s.windowCount then s.integrityAcc else s.integrityCount) b true (q.getD (s.outSeq + 1))
      (v.enterPeriod q b) := ⟨h.1, h.2.1, h.2.2.1, rfl, by show q.getD (v.outSeq + 1) = _; rw [h.2.2.2.2.1], rfl⟩
  revert hv
  generalize v.enterPeriod q b = u
  generalize q.getD (s.outSeq + 1) = sq
  intro hu
  have K := keeps_clock (if 1200 ≤ s.windowCount then 0 else s.windowCount)
      (if 1200 ≤ s.windowCount then 0 else s.integrityAcc)
      (if 1200 ≤ s.windowCount then s.integrityAcc else s.integrityCount) b true sq
  exact State.forLines_keeps (fun n _ hu => State.lineBoundary_keeps K.toKeepsLines hu)
    (State.ageUnit_keeps K.toKeepsGrant
      (State.forScreens_keeps (fun i _ hu => State.screenBoundary_keeps (i := i) K.toKeepsGrant hu) hu))

/-- What the opening of a free-running period does to the period's own fields. -/
theorem State.openFree_clock (s : State) :
    ClockIs (if 1200 ≤ s.windowCount then 0 else s.windowCount) (if 1200 ≤ s.windowCount then 0 else s.integrityAcc)
      (if 1200 ≤ s.windowCount then s.integrityAcc else s.integrityCount) false true (s.outSeq + 1) s.openFree :=
  State.absentPeriod_keeps (keeps_clock_tracker _ _ _ _ _ _) (State.openPeriod_clock s none false)

theorem State.processPeriod_clock (s : State) :
    ClockIs s.windowCount s.integrityAcc s.integrityCount s.periodLocked s.periodOpen s.outSeq s.processPeriod :=
  have h : ClockIs s.windowCount s.integrityAcc s.integrityCount s.periodLocked s.periodOpen s.outSeq s :=
    ⟨rfl, rfl, rfl, rfl, rfl, rfl⟩
  State.processPeriod_keeps
    (keeps_clock s.windowCount s.integrityAcc s.integrityCount s.periodLocked s.periodOpen s.outSeq).toKeepsCues h

/-- The beginning of a message changes the queues, the flags, the message in transmission and alarm sources alone. -/
theorem State.beginMessage_counts {w a n : Nat} {b : Bool} {q : Half} (s : State) (hs : CountsAre w a n b q s) :
    CountsAre w a n b q s.beginMessage := by
  have hn : ∀ u, CountsAre w a n b q u → CountsAre w a n b q u.beginNotice := by
    intro u hu
    unfold State.beginNotice
    split
    · exact hu
    · split
      · exact hu
      · split
        · have : CountsAre w a n b q u.alarmLeaves := by
            unfold State.alarmLeaves State.buildDeferred
            split
            · exact hu
            · rename_i id _
              cases id <;> exact hu
          exact this
        · exact hu
  unfold State.beginMessage
  split
  · split
    · exact State.takeHoldBuffer_keeps (keeps_counts w a n b q) hs
    · exact hn s hs
  · exact hn s hs

/-- The sending of the blocks leaves the window's counts and the period's number and lock state, and ends the period. -/
theorem State.sendBlocks_clock {w a n : Nat} {b o : Bool} {q : Half} (s : State) (hs : ClockIs w a n b o q s) :
    ClockIs w a n b false q s.sendBlocks := by
  have hc : ∀ f : LaneFill, CountsAre w a n b q f.state → CountsAre w a n b q f.choose.state := by
    intro f hf
    unfold LaneFill.choose
    split
    · dsimp only
      split
      · exact hf
      · exact State.beginMessage_counts _ hf
    · exact hf
  have : CountsAre w a n b q s.fillLane.state := by
    unfold State.fillLane
    have h0 : CountsAre w a n b q (LaneFill.pour ⟨s, [], none⟩).state := by
      unfold LaneFill.pour; exact ⟨hs.1, hs.2.1, hs.2.2.1, hs.2.2.2.1, hs.2.2.2.2.1⟩
    revert h0
    generalize LaneFill.pour ⟨s, [], none⟩ = f
    exact fun h0 => hc _ (hc _ (hc _ (hc _ h0)))
  unfold State.sendBlocks
  revert this
  generalize s.fillLane = f
  exact fun h => ⟨h.1, h.2.1, h.2.2.1, h.2.2.2.1, h.2.2.2.2, rfl⟩

/-- A period is counted, as bad where PROGRAM IN was not LOCKED (R10). -/
theorem State.countPeriod_clock {w a n : Nat} {b o : Bool} {q : Half} (s : State) (hs : ClockIs w a n b o q s) :
    ClockIs (w + 1) (a + if b then 0 else 1) n b o q s.countPeriod := by
  obtain ⟨rfl, rfl, rfl, rfl, rfl, rfl⟩ := hs
  unfold State.countPeriod
  refine ⟨rfl, ?_, rfl, rfl, rfl, rfl⟩
  dsimp only
  split <;> rfl

/-- What the end of a period does to the period's own fields: it is counted (R10) and no longer open. -/
theorem State.closePeriod_clock (s : State) :
    ClockIs (s.windowCount + 1) (s.integrityAcc + if s.periodLocked then 0 else 1) s.integrityCount s.periodLocked false
      s.outSeq s.closePeriod :=
  State.sendBlocks_clock _ (State.countPeriod_clock _ (State.processPeriod_clock s))

/-- What the end of a period in progress, if there is one, and the opening of the next do to the period's own fields: the
ended one is counted, and the window ends where it is due (R1, R2, R10). -/
theorem State.reopened_clock (s : State) (q : Option Half) (b : Bool) :
    let w := s.windowCount + if s.periodOpen then 1 else 0
    let a := s.integrityAcc + if s.periodOpen = true ∧ s.periodLocked = false then 1 else 0
    ClockIs (if 1200 ≤ w then 0 else w) (if 1200 ≤ w then 0 else a) (if 1200 ≤ w then a else s.integrityCount) b true
      (q.getD (s.outSeq + 1)) (s.closeIfOpen.openPeriod q b) := by
  intro w a
  have h := State.openPeriod_clock s.closeIfOpen q b
  unfold State.closeIfOpen at *
  by_cases ho : s.periodOpen = true
  · have hc := State.closePeriod_clock s
    simp only [ho, if_true] at h ⊢
    rw [hc.1, hc.2.1, hc.2.2.1, hc.2.2.2.2.1] at h
    have hw : w = s.windowCount + 1 := by simp [w, ho]
    have ha : a = s.integrityAcc + if s.periodLocked then 0 else 1 := by
      simp only [a, ho, true_and]; cases s.periodLocked <;> rfl
    rw [hw, ha]; exact h
  · simp only [ho, if_false, Bool.false_eq_true] at h ⊢
    have hw : w = s.windowCount := by simp [w, ho]
    have ha : a = s.integrityAcc := by simp [a, ho]
    rw [hw, ha]; exact h

/-! ## Blocks read from bits -/

/-- A good program block, searched from its first bit, is read with its sequence number (R4). -/
theorem readProgram_good (l : List Byte) (h : programGood l = true) : readProgram (bitsOf l) = some (seqOf l) := by
  have hl : bytesOf ((bitsOf l).length / 8) (bitsOf l) = l := by
    have := bytesOf_bitsOf l []
    rw [List.append_nil] at this
    rw [length_bitsOf, Nat.mul_div_cancel_left _ (by omega)]; exact this
  unfold readProgram
  simp only [hl]
  have h2 := h
  unfold programGood at h2
  rw [Bool.and_eq_true, decide_eq_true_eq] at h2
  rw [← h2.1.2.2, List.take_length, if_pos h]

end Sys2Proof.Machine
end

