-- ==== Sys2Proof/Laws/Sources.lean ====
section
/-! SUPPORT. Alarm sources read back after a change of a screen or of a source. -/

namespace Sys2Proof.Machine

/-- A screen replaced by one with the same sources leaves every source as it was. -/
theorem State.source_setScreen (s : State) (i : Fin 12) (y : Screen)
   (h1 : y.track = (s.screen i).track) (h2 : y.dropout = (s.screen i).dropout) (h3 : y.preset = (s.screen i).preset) (h4 : y.cue = (s.screen i).cue)
   (h5 : ∀ k, (y.feed k).overload = ((s.screen i).feed k).overload) (h6 : ∀ k, (y.feed k).silent = ((s.screen i).feed k).silent)
   (h7 : ∀ k, (y.feed k).mismatch = ((s.screen i).feed k).mismatch) (id : SourceId) : (s.setScreen i y).source id = s.source id := by
  cases id <;> simp only [State.source, State.feed, State.screen_setScreen] <;> try rfl
  all_goals split
  all_goals first | rfl | (rename_i hj; subst hj; first | assumption | apply h5 | apply h6 | apply h7)

/-- A change of a screen that leaves its sources leaves every source as it was. -/
theorem State.source_onScreen (s : State) (i : Fin 12) (f : Screen → Screen)
   (h1 : ∀ x, (f x).track = x.track) (h2 : ∀ x, (f x).dropout = x.dropout) (h3 : ∀ x, (f x).preset = x.preset) (h4 : ∀ x, (f x).cue = x.cue)
   (h5 : ∀ x k, ((f x).feed k).overload = (x.feed k).overload) (h6 : ∀ x k, ((f x).feed k).silent = (x.feed k).silent)
   (h7 : ∀ x k, ((f x).feed k).mismatch = (x.feed k).mismatch) (id : SourceId) : (s.onScreen i f).source id = s.source id :=
  State.source_setScreen s i _ (h1 _) (h2 _) (h3 _) (h4 _) (h5 _) (h6 _) (h7 _) id

/-- A source replaced is read back, every other source is as it was. -/
theorem State.source_setSource (s : State) (id id2 : SourceId) (x : Source) : (s.setSource id x).source id2 = if id2 = id then x else s.source id2 := by
  by_cases h : id2 = id
  · subst h; rw [State.source_setSource_same]; simp
  · rw [if_neg h]
    cases id <;> cases id2 <;> simp only [State.setSource, State.source, State.onFeed, State.onScreen, State.feed, State.screen_setScreen] <;> try rfl
    all_goals first
      | (exfalso; exact h rfl)
      | (split
         · rename_i hj; subst hj
           first | rfl | (exfalso; exact h rfl) | (rw [Screen.feed_setFeed]; split <;> first | rfl | (rename_i hk; subst hk; first | rfl | (exfalso; exact h rfl)))
         · rfl)

end Sys2Proof.Machine
end

