-- ==== Sys2Proof/Tests/Slice0.lean ====
section
/-! SUPPORT. Own tests: the well-formedness smoke, the worked figures of spec/, and for every statement of
Certificates/Slice0 that has hypotheses a state and operands that meet them. -/

namespace Sys2Proof.Tests

open Sys2Proof Sys2Proof.Machine

/-! ## Well-formedness: one ill-formed term for each check -/

theorem test_wf_program_block_long : Instr.wf (.programBlock true (List.replicate 11659 0)) = false := by decide +kernel
theorem test_wf_sense_block_long : Instr.wf (.senseBlock true (List.replicate 585 0)) = false := by decide +kernel
theorem test_wf_scan_page : Instr.wf (.scanPageRead [(256, 0)]) = false := by decide
theorem test_wf_preset_load : Instr.wf (.presetLoadEnd [(3072, 0)]) = false := by decide
theorem test_wf_refresh : Instr.wf (.formatRefreshEnd [(512, 0)]) = false := by decide
theorem test_wf_verify : Instr.wf (.pageVerifyEnd [(256, 0)]) = false := by decide
theorem test_wf_fetch : Instr.wf (.fetchComplete [(2944, 0)]) = false := by decide
theorem test_wf_unknown_kind_known : Instr.wf (.unknownKind 0x0B 0 0 []) = false := by decide
theorem test_wf_unknown_kind_long : Instr.wf (.unknownKind 0x1F 0 0 (List.replicate 241 0)) = false := by decide +kernel
theorem test_wf_stage_write_long : Instr.wf (.stageWrite 0 0 0 (List.replicate 233 0)) = false := by decide +kernel
theorem test_wf_accepts : Instr.wf (.unknownKind 0x1F 0 0 (List.replicate 240 0)) = true := by decide +kernel

/-! ## Worked figures of the spec -/

/-- 12_formats_and_layouts.md, R184: the check value. -/
theorem test_crc_check_value : crc16 [0x31, 0x32, 0x33, 0x34, 0x35, 0x36, 0x37, 0x38, 0x39] = 0x29B1#16 := by
  decide +kernel

/-- The format of chapter 2's fold sequence. -/
def foldFormat : Format where
  trackCount := 6
  required := 0
  rows := [[16384], [0, 0, 16384], [0, 16384], [0, 0, 0, 16384], [16384], [0, 16384], [0, 0, 0, 0, 16384],
    [0, 0, 0, 0, 0, 16384]]
  foldGain := 23170
  partners := [none, none, none, none, some 0, some 2, some 4, some 5]

/-- Chapter 2, fold sequence, step 2: feed 6 is out with feeds 8..15. -/
theorem test_fold_step_2 : effectiveRow foldFormat (fun k => k = 6 || 8 ≤ k.val) 4 = [16384, 0, 0, 0, 11585, 0, 0, 0] ∧
    foldStateOf foldFormat (fun k => k = 6 || 8 ≤ k.val) 6 = .folded ∧
    foldStateOf foldFormat (fun k => k = 6 || 8 ≤ k.val) 9 = .dropped := by decide +kernel

/-- Chapter 2, fold sequence, step 3: feeds 4 and 6 are out. -/
theorem test_fold_step_3 :
    effectiveRow foldFormat (fun k => k = 4 || k = 6 || 8 ≤ k.val) 0 = [27969, 0, 0, 0, 0, 0, 0, 0] ∧
    foldStateOf foldFormat (fun k => k = 4 || k = 6 || 8 ≤ k.val) 6 = .dropped := by decide +kernel

/-- Chapter 2: the sample of step 2, the rounding table, and the decode at the limit. -/
theorem test_decode_sum : decodeSample [16384, 0, 0, 0, 11585] [1000000, 0, 0, 0, -400000] = ⟨717163, false⟩ := by decide
theorem test_decode_rounding : [-8192, -8193, 8191, 8192].map (fun s => (decodeSample [1] [s]).value) = [0, -1, 0, 1] := by
  decide
theorem test_decode_saturates : decodeSample [16384, 16384] [8000000, 8000000] = ⟨8388607, true⟩ := by decide

/-- Chapter 3: one sample through the feed chain. -/
theorem test_gain_worked : blockGain 32768 32768 29205 32768 false = 29205 := by decide
theorem test_gain_stage : gainStage 29205 ⟨717163, false⟩ = ⟨639183, false⟩ := by decide
theorem test_section : sectionStep ⟨4194304, -2097152, 0, -1048576, 0⟩ ⟨600000, 0, 500001, 0⟩ ⟨639183, false⟩ =
    (⟨464183, false⟩, ⟨639183, 600000, 464183, 500001⟩) := by decide
theorem test_gain_stage_negative : gainStage 29205 ⟨-8388608, true⟩ = ⟨-7476480, true⟩ := by decide
theorem test_section_saturates : sectionStep ⟨8388607, 0, 0, 0, 0⟩ ⟨0, 0, 0, 0⟩ ⟨7476479, true⟩ =
    (⟨8388607, true⟩, ⟨7476479, 0, 8388607, 0⟩) := by decide

/-- Chapter 6: the gains of blocks b and c; chapter 3: the clamp of G2 and protect step 2. -/
theorem test_gain_protect : [28672, 24576].map (fun m => blockGain m 32768 32768 (protectFactor 1) false) = [20274, 17378] :=
  by decide
theorem test_gain_clamp : blockGain 65535 32768 40000 32768 false = 65535 ∧
    blockGain 65535 32768 40000 (protectFactor 2) false = 32768 := by decide

/-- The values a ramp takes at its next n boundaries. -/
def values : Nat → Ramp → List Nat
  | 0, _ => []
  | n + 1, r => r.step.current :: values n r.step

/-- Chapter 3: the mute ramp down and up, and the fade replaced. -/
theorem test_mute_ramp_down : values 12 (Ramp.load ⟨32768, 32768, 32768, 0⟩ 0 12) =
    [30038, 27308, 24578, 21848, 19117, 16386, 13655, 10924, 8193, 5462, 2731, 0] := by decide +kernel
theorem test_mute_ramp_up : values 12 (Ramp.load ⟨0, 0, 0, 0⟩ 32768 12) =
    [2730, 5460, 8190, 10920, 13651, 16382, 19113, 21844, 24575, 27306, 30037, 32768] := by decide +kernel
theorem test_fade_replaced : values 3 (Ramp.load ⟨32768, 32768, 32768, 0⟩ 20001 7) = [30945, 29121, 27297] ∧
    values 3 (Ramp.load ⟨27297, 32768, 20001, 4⟩ 65535 3) = [40043, 52789, 65535] := by decide +kernel

/-- Chapter 5: the meter's figures. -/
theorem test_block_energy : blockEnergy (List.replicate 40 ⟨464183, false⟩) = 3286969 := by decide +kernel
theorem test_level : [nextLevel 0 3286969, nextLevel 205435 3286969, nextLevel 398031 3286969, nextLevel 3286960 0] =
    [205435, 398031, 578590, 3081525] := by decide
theorem test_level_code : [205435, 398031, 578590, 3286960].map levelCode = [12, 24, 35, 200] := by decide

/-- Chapter 5: pairing a sense report; 179 is the largest failing code against 200. -/
theorem test_mismatch : [150, 179, 180].map (mismatchRaw { FeedSet.safe with senseFloor := 40, tolerance := 230 } true false 200) =
    [true, true, false] := by decide

/-- Chapter 5: the overload of one feed, block by block. -/
def overloadStep (x : Source) (p : Nat) : Source :=
  (x.evaluate 2 3 (some (overRaw { FeedSet.safe with overOnset := 6000000, overRelease := 3000000 } x.state p))).1
theorem test_overload_sequence :
    [5000000, 6100000, 6500000, 4000000, 2000000, 3500000, 1000000, 900000, 800000].foldl
      (fun (a : List SourceState × Source) p => (a.1 ++ [(overloadStep a.2 p).state], overloadStep a.2 p)) ([], Source.reset) =
    ([.clear, .onset, .active, .active, .release, .active, .release, .release, .clear],
      ⟨.clear, 0, true, false, 0⟩) := by decide +kernel

/-- Chapter 7: two places of the source order. -/
theorem test_source_order : allSources[15]? = some (.dropout 3) ∧ allSources[126]? = some (.silent 1 9) ∧
    allSources.length = 626 := by decide +kernel

/-- Chapter 9, R150: 75:38 and a count of 3 dropouts at rate code 2 give 76:02. -/
theorem test_position_after : (⟨75, 38⟩ : Position).after (1 + 3) (blocksPerFrame 2) = ⟨76, 2⟩ := by decide

/-- Chapter 9: the list of the show, ids as the table gives them. -/
def showList : List Cue :=
  [⟨1, ⟨0, 0⟩, true, .fade 32768 240, 0, false⟩, ⟨2, ⟨0, 0⟩, true, .preset 1, 1, false⟩,
    ⟨3, ⟨0, 0⟩, false, .mark 100, 2, false⟩, ⟨4, ⟨0, 0⟩, true, .lineSet 6 true, 3, false⟩,
    ⟨8, ⟨30, 0⟩, true, .fade 24000 500, 4, false⟩, ⟨5, ⟨48, 0⟩, true, .lineSet 7 true, 5, false⟩,
    ⟨7, ⟨60, 0⟩, false, .linePulse 11 600, 6, false⟩]
theorem test_chase : (chased showList ⟨38, 10⟩).map Cue.id = [2, 4, 8] ∧ pointerFor showList ⟨38, 10⟩ = 5 := by
  decide +kernel
theorem test_fade_left : [(⟨38, 10⟩ : Position), ⟨41, 0⟩].map
    (fun p => Cue.fadeLeft ⟨8, ⟨30, 0⟩, true, .fade 24000 500, 4, false⟩ 500 p 50) = [90, 0] := by decide

/-- Chapter 12, a message check: LOCK-SET of screen 6 with tag 2Dh occupies 7 bytes, its reply 9 and has kind 9Ch. -/
theorem test_message_length : (messageBytes 0x1C 0x2D 0x06 []).length = 7 ∧
    (messageBytes (replyKind 0x1C) 0x2D 0x06 [0, 0]).length = 9 ∧ replyKind 0x1C = 0x9C := by decide +kernel

/-- Chapter 10: the pulse under a stretch of 2, at period 0: level ON, stretch timer 24, the ACTIVE-LOW pin low. -/
theorem test_pulse_under_stretch :
    Line.follow ⟨some 4, .cue, false, true, 2, .steady, true, false, 10, 0, 7⟩ true =
      ⟨some 4, .cue, false, true, 2, .steady, true, true, 10, 24, 0⟩ ∧
    Line.pin ⟨some 4, .cue, false, true, 2, .steady, true, true, 10, 24, 0⟩ = false := by decide

/-! ## Reset -/

/-- R24, R34: the effective rows after reset are those that format 0 gives with nothing out. -/
theorem test_reset_rows : ∀ k : Fin 16, (State.reset.feed 0 k).row = effectiveRow format0 (fun _ => false) k := by
  decide +kernel

/-! ## Witnesses: for every statement with hypotheses, states and operands that meet them, clause by clause -/

/-- A running part with a period open. -/
def running : State := { State.reset with device := .running, periodOpen := true }

/-- The same with the store port held by a scan unit, so that no grant is made. -/
def busyPort : State := { running with port := some ⟨.scan, 0⟩ }

/-- The same with the port free and no work waiting. -/
def freePort : State := { running with port := none, scan := none }

/-- A good program block with no screen present and no lane bytes, with sequence number 5. -/
def goodBlock : List Byte := trunkBlock programSync ([0, 5, 0, 255] ++ List.replicate 96 0)

/-- A good sense block with sequence number 5, all codes 0. -/
def goodSense : List Byte := trunkBlock senseSync ([0, 5] ++ List.replicate 576 0)

/-- The check of a block laid out as R185 gives it, without the kernel's going through its bytes. -/
theorem check_holds (sync covered : List Byte) (n : Nat) (h : sync.length = 4) (hn : n = 6 + covered.length) :
    checkOk (trunkBlock sync covered) n = true := by
  unfold checkOk trunkBlock
  have h1 : n - 2 = (sync ++ covered).length := by rw [List.length_append]; omega
  rw [h1, List.take_left' rfl, fieldAt_crcBytes, List.drop_left' h]
  simp

theorem witness_good_blocks : programGood goodBlock = true ∧ seqOf goodBlock = 5 ∧ senseGood goodSense = true := by
  have h1 : goodBlock.length = 106 := by
    unfold goodBlock trunkBlock
    rw [List.length_append, List.length_append, length_crcBytes, List.length_append, List.length_replicate]; rfl
  have h2 : goodSense.length = 584 := by
    unfold goodSense trunkBlock
    rw [List.length_append, List.length_append, length_crcBytes, List.length_append, List.length_replicate]; rfl
  refine ⟨?_, by decide +kernel, ?_⟩
  · unfold programGood
    rw [Bool.and_eq_true]
    exact ⟨by rw [h1]; decide +kernel, check_holds _ _ _ rfl
      (by rw [h1, List.length_append, List.length_replicate]; rfl)⟩
  · unfold senseGood
    rw [Bool.and_eq_true]
    exact ⟨by rw [h2]; decide +kernel, check_holds _ _ _ rfl (by rw [List.length_append, List.length_replicate]; rfl)⟩

theorem witness_StepRunsFront : State.reset.pending = [] ∧
    ∃ s : State, ∃ c rest, s.pending = c :: rest := ⟨rfl, { State.reset with pending := [.reset] }, _, _, rfl⟩

theorem witness_ResetLeaves : running.pageInWrite = none := by decide +kernel

theorem witness_ResetCutsOnePage : Memory.wf arrayDefault running.array = true ∧
    State.pageInWrite { running with port := some ⟨.commitWrite, 1⟩ } = some (.room 0 0, 0) := by decide +kernel

/-- A command that changes the state, from a state that meets the invariants. -/
theorem witness_StepKeepsStores : ∃ s t : State, s.storesCanonical ∧ step s = .next t ∧ t.lockInput ≠ s.lockInput :=
  ⟨{ running with pending := [.lockInputChange true], staging := [(3, 7)] }, _, ⟨rfl, rfl⟩, rfl, by decide⟩

theorem source_running (id : SourceId) : running.source id = Source.reset := by
  cases id <;> simp [State.source, running, State.reset, State.feed, State.screen, Screen.reset, Screen.feed, Feed.reset]

/-- A full alarm list but for one place, a commit being written and three STORE notices waiting. -/
theorem witness_StepKeepsQueues : ∃ s t : State, s.queuesKept ∧ s.commit.state ≠ .idle ∧ s.storeNotices.length = 3 ∧
    s.alarms ≠ [] ∧ step s = .next t ∧ t.lockInput ≠ s.lockInput := by
  refine ⟨{ running with
    pending := [.lockInputChange true], alarms := [⟨.trunk, true, 1, 0, none⟩], port := some ⟨.commitWrite, 1⟩
    commit := ⟨.writing, .format 2, .empty, 1, 1, false, .none⟩
    storeNotices := List.replicate 3 ⟨.format 1, .ok⟩ }, _, ⟨⟨by decide, by decide, by decide, by decide⟩,
      ⟨fun _ => by decide, fun p hp => ?_⟩, by decide, fun id hu => ?_⟩, by decide, by decide, by decide, rfl, by decide⟩
  · injection hp with hp; subst hp; exact ⟨fun _ => rfl, fun e => by cases e⟩
  · have h := source_running id
    cases id <;> exact absurd (hu.symm.trans (congrArg Source.unreported h)) (by decide)

theorem witness_StepKeepsLatches : ∃ s t : State, s.latchesHold ∧ (s.source .trunk).isUp = true ∧ step s = .next t ∧
    t.lockInput ≠ s.lockInput := by
  refine ⟨{ running with pending := [.lockInputChange true], trunk := ⟨.active, 0, true, false, 0⟩ }, _, fun id hu => ?_,
    rfl, rfl, by decide⟩
  have h : ∀ id, id ≠ .trunk → State.source { running with
      pending := [.lockInputChange true], trunk := ⟨.active, 0, true, false, 0⟩ } id = Source.reset := fun id hid => by
    have h := source_running id
    cases id <;> first | exact absurd rfl hid | exact h
  by_cases hid : id = .trunk
  · subst hid; rfl
  · rw [h id hid] at hu; exact absurd hu (by decide)

/-- A screen TRACKING between its two cues. -/
def trackingScreen : Screen :=
  { Screen.reset with
    tracking := true, enginePos := some ⟨20, 0⟩, pointer := 1, counter := 2
    cues := [⟨1, ⟨10, 0⟩, true, .mute, 0, false⟩, ⟨2, ⟨30, 0⟩, true, .unmute, 1, true⟩] }

/-- The running part with that screen as its first. -/
def tracking : State := running.setScreen 0 trackingScreen

theorem screen_running (i : Fin 12) : running.screen i = Screen.reset := by simp [State.screen, running, State.reset]

theorem screen_tracking (i : Fin 12) : tracking.screen i = if i = 0 then trackingScreen else Screen.reset := by
  unfold tracking
  rw [State.screen_setScreen, screen_running]

theorem witness_StepKeepsCueLists : ∃ s t : State, s.cuesInOrder ∧ (s.screen 0).tracking = true ∧ step s = .next t ∧
    t.lockInput ≠ s.lockInput := by
  refine ⟨{ tracking with pending := [.lockInputChange true] }, _, ⟨fun i => ?_, ?_⟩, ?_, rfl, by decide⟩
  · show Screen.listOrdered (tracking.screen i) ∧ Screen.pointerInStep (tracking.screen i)
    rw [screen_tracking]
    split
    · refine ⟨⟨?_, by decide, by decide⟩, fun _ => ⟨⟨20, 0⟩, rfl, by decide, by decide, by decide⟩⟩
      simp [trackingScreen, Cue.before, Position.before]
    · exact ⟨⟨List.Pairwise.nil, by decide, by decide⟩, fun h => by simp [Screen.reset] at h⟩
  · show ((List.finRange 12).map fun i => (tracking.screen i).cues.length).sum ≤ 1024
    simp only [screen_tracking]
    decide
  · show (tracking.screen 0).tracking = true
    rw [screen_tracking]; rfl

/-- Both clauses, at the window's last period but one and at its last. -/
theorem witness_BlockPeriodFree : ∀ n ∈ [1198, 1199], ({ running with windowCount := n } : State).periodOpen = true ∧
    running.prog.state ≠ .locked := by decide +kernel

/-- PROGRAM IN locked, with a block to come. -/
def lockedPort : LockMachine := ⟨.locked, some 4, 3, 4, 0⟩

/-- A state in which no alarm source moves in a period: everything locked, STARTING, every source CLEAR and every live set
SAFE; nothing but the mark notices given waits for the return lane. -/
def Quiet (l : List MarkNotice) (s : State) : Prop :=
  (s.alarms = [] ∧ s.replies = [] ∧ s.marks = l ∧ s.storeNotices = []) ∧ (∀ id, (s.source id).state = .clear) ∧
    (∀ i, (s.screen i).live = RoomSet.safe ∧ (s.screen i).tracker.state = .absent) ∧
    s.periodStarting = true ∧ s.periodLocked = true ∧ s.sense.state = .locked

theorem Quiet.feedSet {l : List MarkNotice} {s : State} (h : Quiet l s) (i : Fin 12) (k : Fin 16) : s.feedSet i k = FeedSet.safe := by
  unfold State.feedSet; rw [(h.2.2.1 i).1]; simp [RoomSet.safe]

theorem Quiet.step {l : List MarkNotice} {s : State} (h : Quiet l s) (id : SourceId) (q : Half) (hr : s.rawOf id = some false) :
    s.stepSource id (s.rawOf id) q = s := by
  have hx : (s.source id).evaluate (s.holdOf id) (s.releaseOf id) (some false) = (s.source id, none) := by
    unfold Source.evaluate; simp only [h.2.1 id]
  unfold State.stepSource
  rw [hr, hx]
  have e1 : ∀ i, s.setScreen i (s.screen i) = s := fun i => by simp [State.setScreen, State.screen]
  have e2 : ∀ (x : Screen) k, x.setFeed k (x.feed k) = x := fun x k => by simp [Screen.setFeed, Screen.feed]
  have hs : s.setSource id (s.source id) = s := by
    cases id <;> first
      | rfl
      | exact e1 _
      | exact (congrArg (s.setScreen _) (e2 _ _)).trans (e1 _)
  dsimp only [State.reportMove]
  rw [hs]
  cases id <;> simp [State.protectiveAction, h.feedSet, FeedSet.safe]

theorem Quiet.raw {l : List MarkNotice} {s : State} (h : Quiet l s) : (∀ i k, s.rawOf (.overload i k) = some false) ∧
    (∀ i k, s.rawOf (.silent i k) = some false) ∧ (∀ i, s.rawOf (.track i) = some false) ∧
    (∀ i, s.rawOf (.dropout i) = some false) ∧ (∀ i, s.rawOf (.preset i) = some false) ∧ s.rawOf .trunk = some false ∧
    s.rawOf .senselink = some false := by
  refine ⟨fun i k => ?_, fun i k => ?_, fun i => ?_, fun i => ?_, fun i => ?_, ?_, ?_⟩
  · have := h.2.1 (.overload i k)
    simp only [State.rawOf, h.feedSet, overRaw]; rw [show (s.feed i k).overload.state = .clear from this]; simp [FeedSet.safe]
  · simp [State.rawOf, State.silentRaw, h.feedSet, FeedSet.safe]
  · simp [State.rawOf, h.2.2.2.1]
  · simp [State.rawOf, (h.2.2.1 i).2]
  · simp [State.rawOf, h.2.2.2.1]
  · simp [State.rawOf, h.2.2.2.2.1]
  · simp [State.rawOf, h.2.2.2.2.2]

theorem Quiet.process {l : List MarkNotice} {s : State} (h : Quiet l s) : s.processPeriod.alarms = [] ∧
    s.processPeriod.replies = [] ∧ s.processPeriod.marks = l ∧ s.processPeriod.storeNotices = [] := by
  have feed : ∀ i k (u : State), Quiet l u → Quiet l (u.feedPeriod i k) := by
    intro i k u hu
    have hc : Quiet l (u.chainFeed i k) := by
      refine ⟨hu.1, fun id => ?_, fun j => ?_, hu.2.2.2⟩
      · rw [← hu.2.1 id]; unfold State.chainFeed State.onFeed
        rw [State.source_onScreen] <;> intros <;> (try rfl) <;> (rw [Screen.feed_setFeed]; split <;> (try rfl); rename_i e; subst e; rfl)
      · have f := ((by unfold State.chainFeed; exact State.onFeed_periodFrame _ _ _ _ rfl : PeriodFrame u (u.chainFeed i k)).screens j)
        rw [f.live, f.tracker]; exact hu.2.2.1 j
    unfold State.feedPeriod State.evaluateFeed
    rw [hc.step _ _ (hc.raw.1 i k)]
    dsimp only
    rw [hc.step _ _ (hc.raw.2.1 i k)]
    exact hc
  have h1 : Quiet l (s.forFeeds fun i k t => t.feedPeriod i k) := State.forFeeds_keeps (fun i k _ hu => feed i k _ hu) h
  have h2 : ∀ u, Quiet l u → Quiet l (u.forScreens fun i t => t.stepScreenSources i) := fun u hu =>
    State.forScreens_keeps (fun i v hv => by
      unfold State.stepScreenSources
      rw [hv.step _ _ (hv.raw.2.2.1 i)]; dsimp only
      rw [hv.step _ _ (hv.raw.2.2.2.1 i), hv.step _ _ (hv.raw.2.2.2.2.1 i)]; exact hv) hu
  have h3 : ∀ u, Quiet l u → Quiet l u.stepDeviceSources := fun u hu => by
    unfold State.stepDeviceSources
    rw [hu.step _ _ hu.raw.2.2.2.2.2.1, hu.step _ _ hu.raw.2.2.2.2.2.2]; exact hu
  unfold State.processPeriod
  dsimp only
  have h4 := (h3 _ (h2 _ h1)).1
  revert h4
  generalize (State.forScreens _ _).stepDeviceSources = u
  intro h4
  exact State.refreshLines_keeps (P := fun t => t.alarms = [] ∧ t.replies = [] ∧ t.marks = l ∧ t.storeNotices = [])
    ⟨fun _ _ h => h⟩ (State.forScreens_keeps (P := fun t => t.alarms = [] ∧ t.replies = [] ∧ t.marks = l ∧ t.storeNotices = [])
      (fun i v hv => hv) h4)
/-- A quiet state with given mark notices and n bytes of a message in transmission. -/
def quiet (l : List MarkNotice) (n : Nat) : State :=
  { running with
    prog := lockedPort, sense := lockedPort, periodLocked := true, periodStarting := true, marks := l
    tx := List.replicate n 0 }

theorem quiet_source (l : List MarkNotice) (n : Nat) (id : SourceId) : (quiet l n).source id = running.source id := by
  unfold quiet State.source State.feed State.screen
  cases id <;> rfl

theorem quiet_screen (l : List MarkNotice) (n : Nat) (i : Fin 12) : (quiet l n).screen i = running.screen i := by
  unfold quiet State.screen; rfl

theorem quiet_quiet (l : List MarkNotice) (n : Nat) : Quiet l (quiet l n) :=
  ⟨⟨rfl, rfl, rfl, rfl⟩, fun id => by rw [quiet_source, source_running]; rfl,
    fun i => by rw [quiet_screen, screen_running]; exact ⟨rfl, rfl⟩, rfl, rfl, rfl⟩

/-- What begins next in a state with mark notices and nothing else for the return lane. -/
theorem quiet_begins (l : List MarkNotice) (p : State) (ha : p.alarms = []) (hr : p.replies = []) (hm : p.marks = l)
    (hn : p.storeNotices = []) : (State.beginMessage { p.countPeriod with tx := [] }).tx =
      (l.head?.map MarkNotice.bytes).getD [] := by
  unfold State.beginMessage State.beginNotice State.countPeriod
  simp only [ha, hr, hm, hn]
  cases l <;> rfl

/-- A silent period and one that is not; a message in transmission one byte short of filling the lane and one that fills it,
each with nothing waiting behind it and with a mark notice. -/
theorem witness_BlockPeriodSends : (∀ b, ∃ s : State, s.periodOpen = true ∧ s.prog.state = .locked ∧ s.holdBuf = none ∧
      (!s.periodLocked || s.periodStarting) = b) ∧
    ∀ n ∈ [31, 32], ∀ l ∈ [[], [(⟨3, 7, 1, ⟨2, 3⟩, ⟨2, 3⟩⟩ : MarkNotice)]], ∃ s : State, s.periodOpen = true ∧
      s.prog.state = .locked ∧ s.holdBuf = none ∧ s.tx.length = n ∧
      ((State.beginMessage { s.processPeriod.countPeriod with tx := [] }).tx = [] ↔ l = []) := by
  refine ⟨fun b => ⟨{ running with prog := lockedPort, periodLocked := true, periodStarting := b }, rfl, rfl, rfl, rfl⟩,
    fun n _ l hl => ⟨quiet l n, rfl, rfl, rfl, List.length_replicate, ?_⟩⟩
  obtain ⟨ha, hr, hm, hn⟩ := (quiet_quiet l n).process
  rw [quiet_begins l _ ha hr hm hn]
  simp only [List.mem_cons, List.not_mem_nil, or_false] at hl
  rcases hl with rfl | rfl
  · simp
  · decide +kernel

/-- Each clause: the last period of LOCKED and a later one in SEEK; the confirm clauses at counts 1 and 2, in sequence and out
of it; a bad block with nothing and with a good block in what is left; the same for SENSE IN. -/
theorem witness_SeekAndConfirm : (running.prog.state = .seek ∧ running.lastLocked = false ∧ running.sense.state = .seek ∧
      State.lastLocked { running with periodLocked := true } = true) ∧
    (programGood goodBlock = true ∧ senseGood goodSense = true) ∧
    (∃ s : State, s.prog.state = .confirm ∧ seqOf goodBlock = s.prog.confirmSeq + 1 ∧ s.prog.confirmCount + 1 < 3 ∧
      s.sense.state = .confirm ∧ seqOf goodSense = s.sense.confirmSeq + 1 ∧ s.sense.confirmCount + 1 < 3) ∧
    (∃ s : State, s.prog.state = .confirm ∧ seqOf goodBlock ≠ s.prog.confirmSeq + 1 ∧ s.prog.confirmCount = 2 ∧
      s.sense.state = .confirm ∧ seqOf goodSense ≠ s.sense.confirmSeq + 1) ∧
    (true && programGood []) = false ∧ searchBits programSync readProgram ((bitsOf []).drop 1) = none ∧
    (true && senseGood []) = false ∧ searchBits senseSync readSense ((bitsOf []).drop 1) = none ∧
    (false && programGood goodBlock) = false ∧ (searchBits programSync readProgram (bitsOf goodBlock)).isSome = true :=
  ⟨⟨rfl, rfl, rfl, rfl⟩, ⟨witness_good_blocks.1, witness_good_blocks.2.2⟩,
    ⟨{ running with prog := ⟨.confirm, none, 1, 4, 0⟩, sense := ⟨.confirm, none, 1, 4, 0⟩ }, rfl, by decide +kernel,
      by decide, rfl, by decide +kernel, by decide⟩,
    ⟨{ running with prog := ⟨.confirm, none, 2, 7, 0⟩, sense := ⟨.confirm, none, 2, 7, 0⟩ }, rfl, by decide +kernel, rfl, rfl,
      by decide +kernel⟩, by decide +kernel, by decide +kernel, by decide +kernel, by decide +kernel, rfl,
    by
      rw [show goodBlock = programSync ++ (([0, 5, 0, 255] ++ List.replicate 96 0) ++
        crcBytes ([0, 5, 0, 255] ++ List.replicate 96 0)) from List.append_assoc _ _ _,
        searchBits_front _ _ _ 5 ?_ (by decide)]
      · rfl
      · rw [← List.append_assoc]
        exact (readProgram_good goodBlock witness_good_blocks.1).trans (congrArg some witness_good_blocks.2.1)⟩

theorem witness_LockCompletes : ∃ (s : State) (l : List Byte), s.prog.state = .confirm ∧ programGood l = true ∧
    seqOf l = s.prog.confirmSeq + 1 ∧ 3 ≤ s.prog.confirmCount + 1 :=
  ⟨{ running with prog := ⟨.confirm, none, 2, 4, 0⟩ }, goodBlock, rfl, witness_good_blocks.1, by decide +kernel, by decide⟩

/-- In sequence and with a discontinuity, each with no period open and with one, LOCKED or free-running, whose counting leaves
the integrity window short of its limit or brings it there. -/
theorem witness_LockedTakesBlock : programGood goodBlock = true ∧ ∀ o b : Bool, ∀ n ∈ [1198, 1199], ∃ s t : State,
    s.prog.state = .locked ∧ t.prog.state = .locked ∧ s.periodOpen = o ∧ t.periodOpen = o ∧ s.periodLocked = b ∧
    t.periodLocked = b ∧ s.windowCount = n ∧ t.windowCount = n ∧ seqOf goodBlock = s.prog.expected ∧
    seqOf goodBlock ≠ t.prog.expected := ⟨witness_good_blocks.1, fun o b n _ =>
  ⟨{ running with prog := lockedPort, periodOpen := o, periodLocked := b, windowCount := n },
    { running with prog := ⟨.locked, some 9, 3, 4, 0⟩, periodOpen := o, periodLocked := b, windowCount := n },
    rfl, rfl, rfl, rfl, rfl, rfl, rfl, rfl,
    show seqOf goodBlock = lockedPort.expected by decide +kernel,
    show seqOf goodBlock ≠ LockMachine.expected ⟨.locked, some 9, 3, 4, 0⟩ by decide +kernel⟩⟩

/-- The seventh and the eighth block lost in a row, by its own command and as a bad block, short of the integrity window's
limit and at it. -/
theorem witness_LostBlock : (true && programGood []) = false ∧ ∀ n ∈ [6, 7], ∀ w ∈ [1198, 1199], ∀ o : Bool, ∃ s : State,
    s.prog.state = .locked ∧ s.prog.badRun = n ∧ s.periodOpen = o ∧ s.windowCount = w := ⟨by decide +kernel, fun n _ w _ o =>
  ⟨{ running with prog := ⟨.locked, some 4, 3, 4, n⟩, periodOpen := o, windowCount := w }, rfl, rfl, rfl, rfl⟩⟩

theorem witness_SenseBlocks : senseGood goodSense = true ∧ (∃ s : State, s.sense.state = .locked) ∧
    ∃ s : State, s.sense.state = .confirm ∧ seqOf goodSense = s.sense.confirmSeq + 1 ∧ 3 ≤ s.sense.confirmCount + 1 :=
  ⟨witness_good_blocks.2.2, ⟨{ running with sense := lockedPort }, rfl⟩,
    { running with sense := ⟨.confirm, none, 2, 4, 0⟩ }, rfl, by decide +kernel, by decide⟩

theorem witness_WindowAndDropout : 1200 ≤ ({ running with windowCount := 1200 } : State).windowCount ∧
    ∃ (s : State) (i : Fin 12), (s.screen i).tracker.state = .dropout ∧ (s.screen i).tracker.dropouts = 1199 :=
  ⟨by decide, running.setScreen 3 { Screen.reset with tracker := ⟨.dropout, 0, 255, some 1, some ⟨9, 9⟩, 1199⟩ }, 3,
    by decide +kernel, by decide +kernel⟩

/-- Sums at both ends of the range and one step outside each. -/
theorem witness_DecodeRoundsAndClips :
    [8388607, 8388608, -8388608, -8388609].map (fun v => (((List.zipWith (· * ·) [16384] [v]).sum + 8192) / 16384 : Int)) =
        [8388607, 8388608, -8388608, -8388609] ∧
      (decodeSample [16384] [8388608]).clip = true ∧ (decodeSample [16384] [8388607]).clip = false := by decide

/-- A feed that is not out and that no feed folds into, one that is out, and one that feed 6 alone folds into. -/
theorem witness_EffectiveMatrix :
    (∀ j : Fin 16, decide (j = 6) = true → foldFormat.partner j ≠ some 3) ∧ decide ((6 : Fin 16) = 6) = true ∧
    foldFormat.partner 6 = some 4 ∧ decide ((4 : Fin 16) = 6) = false ∧ 5 < foldFormat.trackCount ∧
    ∀ q : Fin 16, q ≠ 6 → decide (q = 6) = true → foldFormat.partner q ≠ some 4 := by
  decide +kernel

theorem witness_MeterBounds : (List.replicate 40 (⟨-8388608, true⟩ : Sample)).length = 40 ∧
    (∀ y ∈ List.replicate 40 (⟨-8388608, true⟩ : Sample), -8388608 ≤ y.value ∧ y.value ≤ 8388607) ∧
    (([(3, 5), (4, 6)] : List (Half × Nat)).map Prod.fst).Nodup ∧
    (List.replicate 2048 (⟨0, false⟩ : Sample)).length = 2048 ∧ 8388607 < ((8388607 : Int) * 65535 + 16384) / 32768 ∧
    ((-8388608 : Int) * 65535 + 16384) / 32768 < -8388608 ∧ ((8388607 : Int) * 32768 + 16384) / 32768 = 8388607 :=
  ⟨by decide, by decide, by decide, List.length_replicate, by decide, by decide, by decide⟩

/-- A live set whose feeds have every action in their masks, an OVER onset of 10 with a release of 5, and a tolerance. -/
def protectedSet : RoomSet := ⟨0, 65535, Vector.replicate 16 { FeedSet.safe with
  notify := true, protect := true, fold := true, overOnset := 10, overRelease := 5, tolerance := 230 }⟩

/-- The running part with that set on screen 1, a given OVER source, protect record and peak on feed 1.0, and SENSE IN locked
at the sequence number of its one ring entry. -/
def withProtect (st : SourceState) (p : Protect) (peak : Nat) : State :=
  { running.setScreen 0 (({ Screen.reset with live := protectedSet } : Screen).setFeed 0
      { Feed.reset 0 with
        overload := ⟨st, 0, true, false, 0⟩, protect := p, senseFault := true
        meter := ⟨peak, 0, 0, 0, 0, 0, [(7, 3)]⟩ }) with sense := ⟨.locked, some 7, 3, 0, 0⟩ }

/-- TRUNK of a part that is not locked raises at its first raw-true step; so do OVER of a feed with PROTECT and MISMATCH of
one with FOLD; SENSELINK of a locked SENSE IN does not. -/
theorem witness_AlarmRaised : running.raiseDue .trunk = true ∧
    (withProtect .clear ⟨0, 0, 0⟩ 10).raiseDue (.overload 0 0) = true ∧
    (withProtect .clear ⟨0, 0, 0⟩ 10).raiseDue (.mismatch 0 0) = true ∧
    ((withProtect .clear ⟨0, 0, 0⟩ 10).feedSet 0 0).fold = true ∧
    ((withProtect .clear ⟨0, 0, 0⟩ 10).feed 0 0).meter.ring.head? = some (7, 3) ∧
    (withProtect .clear ⟨0, 0, 0⟩ 10).sense.lastGood = some 7 ∧
    (withProtect .clear ⟨0, 0, 0⟩ 10).raiseDue .senselink = false := by decide +kernel

/-- OVER raised before the block of the period in progress is metered carries the number and the peak of the one before it. -/
theorem test_report_number : (match exec (.alarmRaised (.overload 0 0)) { withProtect .clear ⟨0, 0, 0⟩ 10 with outSeq := 8 } with
    | .next t => t.alarms
    | _ => []) = [⟨.overload 0 0, true, 1, 7, some 10⟩] := by decide +kernel

theorem witness_AlarmCleared :
    State.clearDue { running with prog := lockedPort, trunk := ⟨.release, 1199, true, false, 0⟩ } .trunk = true ∧
    (withProtect .active ⟨2, 3, 4⟩ 4).clearDue (.overload 0 0) = true ∧ running.clearDue .trunk = false := by decide +kernel

theorem witness_HoldCountsSteps : Source.reset.state = .clear ∧ (⟨.active, 0, true, false, 0⟩ : Source).state = .active ∧
    1 ≤ 1 := by decide

/-- The three ways, the third by a full list and by a deferred source. -/
theorem witness_AlarmQueueTakes :
    State.queued { running with alarms := [⟨.trunk, true, 1, 0, none⟩] } .trunk = true ∧
    running.queued .trunk = false ∧ (running.source .trunk).unreported = false ∧ running.alarms.length < 64 ∧
    State.queued { running with alarms := List.replicate 64 ⟨.senselink, true, 1, 0, none⟩ } .trunk = false := by
  decide +kernel

/-- From ACTIVE, back from RELEASE, and in CLEAR, the peak at the edge of each. -/
theorem witness_ProtectSteps :
    (∀ st ∈ [SourceState.active, .release],
      ((withProtect st ⟨4, 255, 0⟩ 5).feedSet 0 0).protect = true ∧
      ((withProtect st ⟨4, 255, 0⟩ 5).feed 0 0).overload.state = st ∧
      ((withProtect st ⟨4, 255, 0⟩ 5).feedSet 0 0).overRelease ≤ ((withProtect st ⟨4, 255, 0⟩ 5).feed 0 0).meter.peak ∧
      ((withProtect st ⟨4, 255, 0⟩ 5).feed 0 0).protect.escalation = 255) ∧
    ((withProtect .clear ⟨0, 0, 2399⟩ 9).feed 0 0).overload.state = .clear ∧
    ((withProtect .clear ⟨0, 0, 2399⟩ 9).feed 0 0).meter.peak < ((withProtect .clear ⟨0, 0, 2399⟩ 9).feedSet 0 0).overOnset ∧
    ((withProtect .clear ⟨0, 0, 2399⟩ 9).feed 0 0).protect.recovery = 2399 := by decide +kernel

/-- From reset, a first page that no command ended ends of itself as the second period opens: a page each block period
(R75, R87). -/
theorem test_scan_page_of_the_first_period :
    State.reset.overdueUnit.scan = some ⟨0, 1⟩ ∧ State.reset.overdueUnit.port = some ⟨.scan, 0⟩ := by decide +kernel

/-- The reset state at the end of its first period; a slot's first page of two, its last, and the last slot with the
screens' boot choices still to make: all SAFE, and screen 5 with a boot slot. -/
theorem witness_ScanReadsPages : (State.reset.periodOpen = true ∧ State.reset.prog.state ≠ .locked ∧
      State.reset.holdBuf = none ∧ State.reset.port = some ⟨.scan, 1⟩ ∧ State.reset.scan = some ⟨0, 0⟩ ∧
      0 + 1 < (scanSlot 0).pages) ∧ (∃ (s : State) (c : Scan), s.port = some ⟨.scan, 1⟩ ∧ s.scan = some c ∧
      c.page + 1 < (scanSlot c.place).pages ∧ (scanSlot c.place).pages ≤ (⟨c.place, 1⟩ : Scan).page + 1 ∧
      c.place.val + 1 < 63 ∧ (s.slot (scanSlot c.place)).mark = .blank) ∧
    (∀ i, State.reset.bootChoice i = .safe ∧ (State.reset.screen i).running = none) ∧
    (scanSlot 62).pages ≤ 11 + 1 ∧ 63 ≤ (62 : Fin 63).val + 1 ∧
    (State.reset.onSlot (.room 4 2) fun x => { x with state := .valid, boot := true }).bootChoice 4 = .slot 2 :=
  ⟨⟨rfl, nofun, rfl, rfl, rfl, by decide⟩, ⟨State.reset, ⟨0, 0⟩, rfl, rfl, by decide, by decide, by decide,
    by decide +kernel⟩, by decide +kernel, by decide, by decide, by decide +kernel⟩

/-- While RUNNING; while STARTING, alone and with another boot load left. -/
theorem witness_PresetLoadEnds : ∀ d ∈ [Device.running, .starting], ∀ o ∈ [none, some (⟨.slot 0, .loadWait⟩ : Operation)],
    ∃ s : State, s.device = d ∧ s.port = some ⟨.load 3, 2⟩ ∧ (s.screen 3).running = some ⟨.slot 1, .loading⟩ ∧
      (s.screen 5).running = o := fun d _ o _ =>
  ⟨({ running with port := some ⟨.load 3, 2⟩, device := d }.setScreen 3
      { Screen.reset with running := some ⟨.slot 1, .loading⟩ }).setScreen 5 { Screen.reset with running := o }, rfl, rfl,
    by rw [State.screen_setScreen_other _ _ _ _ (by decide), State.screen_setScreen_same], by
      rw [State.screen_setScreen_same]⟩

theorem witness_LiveSetReplaced : ∃ (s : State) (b : LoadBuffer), (s.screen 3).phase = .fadingOut ∧
    (s.screen 3).muteZero = true ∧ (s.screen 3).loadBuf = some b :=
  ⟨running.setScreen 3 { Screen.reset with phase := .fadingOut, muteZero := true, loadBuf := some ⟨RoomSet.safe, .slot 1⟩ },
    ⟨RoomSet.safe, .slot 1⟩, by decide +kernel, by decide +kernel, by decide +kernel⟩

/-- At the 12th boundary and behind it, with each kind of pending operation. -/
theorem witness_SwapEnds : ∀ n ∈ [0, 10, 11, 12], ∀ w ∈ [none, some (PresetRef.slot 2), some .safe], ∃ s : State,
    (s.screen 3).phase = .fadingIn ∧ (s.screen 3).fadeIn = n ∧ (s.screen 3).waiting = w ∧ s.port ≠ none := fun n _ w _ =>
  ⟨busyPort.setScreen 3 { Screen.reset with phase := .fadingIn, fadeIn := n, waiting := w }, by
    rw [State.screen_setScreen_same], by rw [State.screen_setScreen_same], by rw [State.screen_setScreen_same], nofun⟩

/-- A refresh of a slot as it was, and of one erased meanwhile. -/
theorem witness_FormatRefreshed : ∀ b, ∃ s : State, s.port = some ⟨.refresh 5, 1⟩ ∧ s.dropRefresh = b := fun b =>
  ⟨{ running with port := some ⟨.refresh 5, 1⟩, dropRefresh := b }, rfl, rfl⟩

theorem witness_PageWritten : ∃ s : State, Memory.wf arrayDefault s.array = true ∧ s.port = some ⟨.commitWrite, 1⟩ ∧
    s.commit.abandon = true :=
  ⟨{ running with port := some ⟨.commitWrite, 1⟩, commit := ⟨.writing, .format 2, .empty, 1, 1, true, .none⟩ }, rfl, rfl, rfl⟩

/-- A format slot holding the staging buffer's image: unequal at page 0 of an empty array, equal and last at page 1 of an
image of FFh bytes. -/
theorem witness_PageVerified : ∃ s : State, s.port = some ⟨.commitVerify, 1⟩ ∧ s.commit.abandon = false ∧
    delivered [] (s.storedPage s.commit.target s.commit.next) ≠ s.stagedPage s.commit.target s.commit.next :=
  ⟨{ running with port := some ⟨.commitVerify, 1⟩, commit := ⟨.verifying, .format 2, .empty, 2, 0, false, .none⟩ }, rfl, rfl,
    by decide +kernel⟩

/-- The bytes of a format image of slot 3 before and behind its CRC: type 2, version 1, number 3, 8 tracks. -/
def imageHead : List Byte := [2, 1, 3, 8] ++ List.replicate 26 0
def imageTail : List Byte := List.replicate 272 0
def image : List Byte := imageHead ++ (crcBytes (imageHead ++ imageTail) ++ imageTail)

theorem imageHead_length : imageHead.length = 30 := by
  unfold imageHead; rw [List.length_append, List.length_replicate]; rfl

theorem imageTail_length : imageTail.length = 272 := by unfold imageTail; rw [List.length_replicate]

theorem image_length : image.length = 304 := by
  unfold image
  rw [List.length_append, List.length_append, length_crcBytes, imageHead_length, imageTail_length]

/-- What is written at an address is read back from there. -/
theorem readAll_writeAll (d : Byte) (m : Memory) (x : Nat) (l : List Byte) (hm : Memory.wf d m = true) :
    Memory.readAll d (m.writeAll d x l) x l.length = l := by
  apply List.ext_getElem
  · exact Memory.length_readAll _ _ _ _
  · intro n h1 h2
    simp only [Memory.readAll, List.getElem_map, List.getElem_range]
    rw [Memory.read_writeAll d m x _ l hm, if_pos (by omega)]
    simp [h2]

theorem image_ok : imageCrcOk (.format 2) image = true ∧ imageOk (.format 2) image = true := by
  have hc : imageCrcOk (.format 2) image = true := by
    have h1 : formatCovered image = imageHead ++ imageTail := by
      unfold formatCovered image
      rw [List.take_left' imageHead_length, ← List.append_assoc,
        List.drop_left' (by rw [List.length_append, length_crcBytes, imageHead_length]),
        List.take_of_length_le (by rw [imageTail_length])]
    have h2 : fieldAt image 30 2 = (crc16 (imageHead ++ imageTail)).toNat := by
      have hn : (crc16 (imageHead ++ imageTail)).toNat < 256 ^ 2 := (crc16 _).isLt
      exact fieldAt_toBytes_append imageHead imageTail 30 2 _ imageHead_length hn
    unfold imageCrcOk
    dsimp only
    rw [h1, h2]
    exact decide_eq_true rfl
  refine ⟨hc, ?_⟩
  unfold imageOk
  dsimp only
  rw [hc]
  decide +kernel

/-- The same image with another CRC. -/
def badImage : List Byte :=
  imageHead ++ (toBytes 2 (((crc16 (imageHead ++ imageTail)).toNat + 1) % 65536) ++ imageTail)

theorem badImage_length : badImage.length = 304 := by
  unfold badImage
  rw [List.length_append, List.length_append, length_toBytes, imageHead_length, imageTail_length]

theorem badImage_crc : imageCrcOk (.format 2) badImage = false := by
  have h1 : formatCovered badImage = imageHead ++ imageTail := by
    unfold formatCovered badImage
    rw [List.take_left' imageHead_length, ← List.append_assoc,
      List.drop_left' (by rw [List.length_append, length_toBytes, imageHead_length]),
      List.take_of_length_le (by rw [imageTail_length])]
  have h2 : fieldAt badImage 30 2 = ((crc16 (imageHead ++ imageTail)).toNat + 1) % 65536 :=
    fieldAt_toBytes_append imageHead imageTail 30 2 _ imageHead_length (Nat.mod_lt _ (by decide))
  have h3 := (crc16 (imageHead ++ imageTail)).isLt
  unfold imageCrcOk
  dsimp only
  rw [h1, h2]
  exact decide_eq_false (by omega)

/-- A part whose staging buffer begins with given bytes. -/
def stagedWith (l : List Byte) : State := { busyPort with staging := Memory.writeAll stagingDefault [] 0 l }

theorem stagedWith_image (l : List Byte) (hl : l.length = 304) : (stagedWith l).stagedImage (.format 2) = l := by
  have h := readAll_writeAll stagingDefault [] 0 l rfl
  rw [hl] at h
  have e : (stagedWith l).staging = Memory.writeAll stagingDefault [] 0 l := by unfold stagedWith; dsimp only
  unfold State.stagedImage State.stagingBytes
  rw [e]
  exact h

/-- A part whose staging buffer holds that image. -/
def staged : State := stagedWith image

theorem staged_image : staged.stagedImage (.format 2) = image := stagedWith_image image image_length

theorem storedPage_written (s : State) (id : SlotId) (n : Nat) (l : List Byte) (hl : l.length = Config.pageSize)
    (h : s.array = Memory.writeAll arrayDefault [] (id.base + Config.pageSize * n) l) : s.storedPage id n = l := by
  unfold State.storedPage State.arrayBytes
  rw [h, ← hl]
  exact readAll_writeAll _ _ _ _ rfl

theorem delivered_sound (l : List Byte) : delivered [] l = l := by
  unfold delivered
  apply List.ext_getElem
  · simp
  · intro n h1 h2
    simp [byteAt, h2]

/-- A part as given, at the verify of the last page of format slot 3, with the array holding what the page should. -/
def verifying (s : State) : State := { s with
  port := some ⟨.commitVerify, 1⟩
  commit := ⟨.verifying, .format 2, .empty, 2, 1, false, .none⟩
  engineWork := none
  array := Memory.writeAll arrayDefault [] ((SlotId.format 2).base + Config.pageSize * 1) (s.stagedPage (.format 2) 1) }

theorem verifying_image (s : State) : (verifying s).stagedImage (.format 2) = s.stagedImage (.format 2) := by
  unfold State.stagedImage State.stagingBytes verifying
  rfl

theorem verifying_page (s : State) : (verifying s).stagedPage (.format 2) 1 = s.stagedPage (.format 2) 1 := by
  unfold State.stagedPage verifying
  rfl

theorem length_stagedPage (s : State) (id : SlotId) (n : Nat) : (s.stagedPage id n).length = Config.pageSize := by
  unfold State.stagedPage
  simp

theorem verifying_equal (s : State) :
    delivered [] ((verifying s).storedPage (.format 2) 1) = (verifying s).stagedPage (.format 2) 1 := by
  rw [delivered_sound, verifying_page]
  exact storedPage_written _ _ _ _ (length_stagedPage _ _ _) (by unfold verifying; dsimp only)

/-- An abandon asked for in a verify, with pages written and, as no run has it, with none. -/
theorem witness_PageVerified_abandoned : ∀ n ∈ [0, 2], ∃ s : State, s.port = some ⟨.commitVerify, 1⟩ ∧
    s.commit.abandon = true ∧ s.commit.written = n := fun n _ =>
  ⟨{ running with port := some ⟨.commitVerify, 1⟩, commit := ⟨.verifying, .format 2, .empty, n, 0, true, .none⟩ }, rfl, rfl,
    rfl⟩

/-- The last page of that image, verified against an array that holds it. -/
theorem witness_PageVerified_last : ∃ s : State, s.port = some ⟨.commitVerify, 1⟩ ∧ s.commit.abandon = false ∧
    s.commit.target = .format 2 ∧ s.commit.next = 1 ∧ (SlotId.format 2).pages ≤ 1 + 1 ∧
    delivered [] (s.storedPage (.format 2) 1) = s.stagedPage (.format 2) 1 ∧
    imageCrcOk (.format 2) (s.stagedImage (.format 2)) = true ∧ s.engineWork = none :=
  ⟨verifying staged, rfl, rfl, rfl, rfl, by decide, verifying_equal staged,
    by rw [verifying_image, staged_image]; exact image_ok.1, rfl⟩

/-- The verify of page 10 of a room slot's 12, with the array holding what the page should. -/
def verifyingRoom : State := { running with
  port := some ⟨.commitVerify, 1⟩, scan := none
  commit := ⟨.verifying, .room 0 0, .empty, 12, 10, false, .none⟩
  array := Memory.writeAll arrayDefault [] ((SlotId.room 0 0).base + Config.pageSize * 10) (running.stagedPage (.room 0 0) 10) }

theorem verifyingRoom_page : verifyingRoom.stagedPage (.room 0 0) 10 = running.stagedPage (.room 0 0) 10 := by
  unfold State.stagedPage verifyingRoom
  rfl

/-- The same page equal with an image of another CRC; and an equal page before the last. -/
theorem witness_PageVerified_more : (∃ s : State, s.port = some ⟨.commitVerify, 1⟩ ∧ s.commit.next = 1 ∧
      delivered [] (s.storedPage (.format 2) 1) = s.stagedPage (.format 2) 1 ∧
      imageCrcOk (.format 2) (s.stagedImage (.format 2)) = false) ∧
    verifyingRoom.port = some ⟨.commitVerify, 1⟩ ∧ verifyingRoom.commit.target = .room 0 0 ∧
    verifyingRoom.commit.next = 10 ∧ 10 + 1 < (SlotId.room 0 0).pages ∧
    (SlotId.room 0 0).pages ≤ verifyingRoom.commit.written ∧
    delivered [] (verifyingRoom.storedPage (.room 0 0) 10) = verifyingRoom.stagedPage (.room 0 0) 10 :=
  ⟨⟨verifying (stagedWith badImage), rfl, rfl, verifying_equal _,
      by rw [verifying_image, stagedWith_image _ badImage_length]; exact badImage_crc⟩, rfl, rfl, rfl, by decide, by decide, by
    rw [delivered_sound, verifyingRoom_page]
    exact storedPage_written _ _ _ _ (length_stagedPage _ _ _) (by unfold verifyingRoom; dsimp only)⟩

/-- The first page of a format slot's erase, and its last, with a message in the hold buffer and without; the last commit
was of the same slot, or is in flight to another. -/
theorem witness_ErasePageWritten : ∀ page ∈ [0, 1], ∀ b ∈ [none, some (⟨0x1C, 9, 4, []⟩ : Message)],
    ∀ c ∈ [(⟨.idle, .format 2, .empty, 2, 0, false, .ok⟩ : Commit), ⟨.waiting, .room 0 1, .empty, 3, 3, false, .none⟩], ∃ s : State,
    Memory.wf arrayDefault s.array = true ∧ s.port = some ⟨.engine, 1⟩ ∧ s.engineWork = some (.erase (.format 2) page) ∧
    s.held ≠ none ∧ s.holdBuf = b ∧ s.replies.length < 8 ∧ (s.commit.state = .idle ∨ s.commit.target ≠ .format 2) ∧
    page + 1 ≤ (SlotId.format 2).pages := fun page h b _ c hc =>
  ⟨{ running with
      port := some ⟨.engine, 1⟩, engineWork := some (.erase (.format 2) page), held := some ⟨0x09, 8, 0, [2, 3]⟩
      holdBuf := b, commit := c }, rfl, rfl, rfl, fun h => (by cases h), rfl, Nat.zero_lt_succ _,
    by clear h; simp only [List.mem_cons, List.not_mem_nil, or_false] at hc; rcases hc with rfl | rfl
       · exact .inl rfl
       · exact .inr nofun,
    by revert page; decide⟩

theorem witness_FetchCompletes : ∀ b ∈ [none, some (⟨0x1C, 9, 4, []⟩ : Message)], ∃ s : State,
    Memory.wf stagingDefault s.staging = true ∧ s.port = some ⟨.engine, 1⟩ ∧
    s.engineWork = some (.fetch (.room 3 1) 1152) ∧ s.holdBuf = b ∧ s.replies.length < 8 := fun b _ =>
  ⟨{ running with port := some ⟨.engine, 1⟩, engineWork := some (.fetch (.room 3 1) 1152), holdBuf := b }, rfl, rfl, rfl,
    rfl, Nat.zero_lt_succ _⟩

/-- A line for each clause: a stretch and a pulse at their last boundary, both blink counts before their two changes. -/
theorem witness_LineTimers : ∃ s : State, (s.line 0).stretchTimer = 1 ∧
    ((s.line 1).pulse = 1 ∧ (s.line 1).source = .cue ∧ (s.line 1).stretchTimer = 0) ∧
    ∀ p ∈ [((2 : Fin 24), Blink.slow, 599), (3, .fast, 299), (4, .slow, 1199), (5, .fast, 149)],
      (s.line p.1).level = true ∧ (s.line p.1).blink = p.2.1 ∧ (s.line p.1).blinkCount = p.2.2 ∧
        (s.line p.1).source = .alarmLive := by
  refine ⟨(((((running.setLine 0 { Line.reset with stretchTimer := 1, level := true }).setLine 1
    ⟨some 4, .cue, false, false, 0, .steady, true, true, 1, 0, 0⟩).setLine 2
    ⟨some 4, .alarmLive, false, false, 0, .slow, false, true, 0, 0, 599⟩).setLine 3
    ⟨some 4, .alarmLive, false, false, 0, .fast, false, true, 0, 0, 299⟩).setLine 4
    ⟨some 4, .alarmLive, false, false, 0, .slow, false, true, 0, 0, 1199⟩).setLine 5
    ⟨some 4, .alarmLive, false, false, 0, .fast, false, true, 0, 0, 149⟩, ?_⟩
  decide +kernel

theorem ready_running : running.ready ∧ running.device = .running ∧ screenOf 4 = some 3 := ⟨⟨rfl, rfl, by decide⟩, rfl, rfl⟩

theorem ready_busy : busyPort.ready ∧ busyPort.device = .running ∧ busyPort.port ≠ none := ⟨⟨rfl, rfl, by decide⟩, rfl, by decide⟩

/-- All four clauses: no commit, a commit of the screen's slot, the LOCK input both ways. -/
theorem witness_ShowLocks : running.commitTargets 3 = false ∧ running.lockInput = false ∧
    ∃ s : State, s.ready ∧ s.device = .running ∧ s.commitTargets 3 = true ∧ s.lockInput = true :=
  ⟨by decide +kernel, rfl,
    { running with commit := ⟨.waiting, .room 3 0, .empty, 0, 0, false, .none⟩, lockInput := true },
    ⟨rfl, rfl, by decide⟩, rfl, by decide +kernel, rfl⟩

theorem witness_LineRequests : (lineConfigOf [24, 4, 1, 0, 1, 2, 0]).isSome = true ∧
    lineDriveOf ([1, 2] ++ toBytes 2 (30 : Half).toNat) = some (0, true, 30) ∧
    ∃ s : State, s.ready ∧ s.device = .running ∧ (s.line 0).owner = some 3 ∧ (s.line 0).source = .cue := by
  refine ⟨by decide +kernel, by decide +kernel,
    running.setLine 0 ⟨some 3, .cue, false, false, 0, .steady, false, false, 0, 0, 0⟩, ⟨rfl, rfl, by decide⟩, rfl, ?_⟩
  decide +kernel

theorem witness_LaneReadsMessages : running.asm = ⟨.waitStart, [], 0⟩ ∧ (List.replicate 240 (0 : Byte)).length ≤ 240 :=
  ⟨rfl, by rw [List.length_replicate]⟩

/-- A held message that may be taken, and one behind a held request. -/
theorem witness_HoldBufferTaken : ∃ (s t : State) (m : Message), s.holdBuf = some m ∧ s.held = none ∧ s.replies.length < 8 ∧
    t.holdBuf = some m ∧ t.held ≠ none :=
  ⟨{ running with holdBuf := some ⟨0x1C, 9, 4, []⟩ },
    { running with holdBuf := some ⟨0x1C, 9, 4, []⟩, held := some ⟨0x06, 8, 4, [1, 0, 0, 0]⟩ }, _, rfl, rfl, by decide, rfl,
    by decide⟩

/-- The eight replies of a full queue. -/
def eightReplies : List Reply := List.replicate 8 ⟨0x1C, 9, 4, .done, false, [], true⟩

/-- Execution HELD and the reply queue full, each with the hold buffer empty and occupied; a part that can take a message. -/
theorem witness_MessagesPlaced : (∃ s : State, s.held ≠ none ∧ s.holdBuf = none) ∧ (∃ s : State, s.held ≠ none ∧ s.holdBuf ≠ none) ∧
    (∀ b, ∃ s : State, s.held = none ∧ 8 ≤ s.replies.length ∧ s.holdBuf = b) ∧
    running.ready ∧ kindOf 0x1F = none ∧ kindOf 0x1C = some .lockSet ∧ RequestKind.admits .lockSet 1 = false :=
  ⟨⟨{ running with held := some ⟨0x06, 8, 4, [1, 0, 0, 0]⟩ }, by decide, rfl⟩,
    ⟨{ running with held := some ⟨0x06, 8, 4, [1, 0, 0, 0]⟩, holdBuf := some ⟨0x1C, 9, 4, []⟩ }, by decide, by decide⟩,
    fun b => ⟨{ running with replies := eightReplies, holdBuf := b }, rfl, by unfold eightReplies; exact Nat.le_refl _, rfl⟩,
    ready_running.1, by decide, by decide, by decide⟩

/-- A part with the show lock of screen 4 set. -/
def locked : State := running.setScreen 3 { Screen.reset with showLock := true }

/-- A request refused in STARTING, and one of each kind of locked request. -/
theorem witness_RequestsRefused :
    (State.reset.device = .starting ∧ kindOf 0x1C = some .lockSet ∧ RequestKind.admits .lockSet 0 = true ∧
      RequestKind.servedInStarting .lockSet = false) ∧
    (locked.device = .running ∧ screenOf 4 = some 3 ∧ (locked.screen 3).showLock = true) ∧
    (kindOf 0x10 = some .cueClear ∧ RequestKind.admits .cueClear 0 = true) ∧
    (kindOf 0x0A = some .presetSelect ∧ (byteAt [3] 0).toNat < 4) ∧
    (kindOf 0x0B = some .formatOverride ∧ (overrideField (byteAt [255] 0)).isSome = true) ∧
    (kindOf 0x09 = some .slotErase ∧ Message.slotRef ⟨0x09, 1, 4, [1, 2]⟩ = some (.room 3 2)) ∧
    (kindOf 0x07 = some .commit ∧ locked.commit.state = .idle ∧ locked.storeNotices.length < 4) := by decide +kernel

theorem witness_ReportsServed : running.ready ∧ slotRefOf 4 1 3 = some (.room 3 3) ∧ slotRefOf 0 2 15 = some (.format 14) ∧
    screenOf 12 = some 11 := ⟨ready_running.1, by decide, by decide, by decide⟩

/-- Offsets at the end of the buffer, a longest write and a longest read. -/
theorem witness_StagingRequests : running.ready ∧ running.device = .running ∧ running.commit.state = .idle ∧
    Memory.wf stagingDefault running.staging = true ∧ (3864 : Half).toNat < 4096 ∧ (3864 : Half).toNat + 232 ≤ 4096 ∧
    (List.replicate 232 (7 : Byte)).length ≤ 232 :=
  ⟨ready_running.1, rfl, rfl, rfl, by decide, by decide, by rw [List.length_replicate]⟩

/-- A free port with nothing waiting, and a busy one; a slot that can be fetched. -/
theorem witness_StageFetchHolds : ∃ s t : State, s.ready ∧ s.device = .running ∧ s.commit.state = .idle ∧ s.port = none ∧
    s.scan = none ∧ s.refreshes = [] ∧ s.findScreen Screen.loadWaits = none ∧ (s.slot (.format 14)).state = .valid ∧
    t.ready ∧ t.port ≠ none ∧ (t.slot (.format 14)).state = .invalid :=
  ⟨{ running with scan := none, port := none }.onSlot (.format 14) fun x => { x with state := .valid },
    busyPort.onSlot (.format 14) fun x => { x with state := .invalid }, ⟨rfl, rfl, by decide⟩, rfl, rfl, rfl, rfl, rfl,
    by decide +kernel, by decide +kernel, ⟨rfl, rfl, by decide⟩, by decide, by decide +kernel⟩

/-- The same image staged with the port free. -/
def stagedFree : State := { freePort with staging := Memory.writeAll stagingDefault [] 0 image }

theorem stagedFree_image : stagedFree.stagedImage (.format 2) = image := by
  rw [← staged_image]
  unfold State.stagedImage State.stagingBytes
  have e : stagedFree.staging = staged.staging := by unfold stagedFree staged stagedWith; dsimp only
  rw [e]

/-- Behind other store work, and with the port free and nothing ahead. -/
theorem witness_CommitAccepted : ∃ (s u : State) (id : SlotId), slotRefOf 0 2 3 = some id ∧ s.port ≠ none ∧ u.port = none ∧
    u.scan = none ∧ u.findScreen Screen.loadWaits = none ∧ u.refreshes = [] ∧ u.engineWork = none ∧
    (s.ready ∧ s.device = .running ∧ s.commit.state = .idle ∧ s.storeNotices.length < 4 ∧ s.slotLocked id = false ∧
      s.slotProtected id = false ∧ imageOk id (s.stagedImage id) = true) ∧
    (u.ready ∧ u.device = .running ∧ u.commit.state = .idle ∧ u.storeNotices.length < 4 ∧ u.slotLocked id = false ∧
      u.slotProtected id = false ∧ imageOk id (u.stagedImage id) = true) := by
  have hf : stagedFree.findScreen Screen.loadWaits = none := by
    have h : freePort.findScreen Screen.loadWaits = none := by decide +kernel
    rw [← h]
    unfold State.findScreen State.screen
    have e : stagedFree.screens = freePort.screens := by unfold stagedFree; dsimp only
    rw [e]
  have hi : imageOk (.format 2) (staged.stagedImage (.format 2)) = true := by rw [staged_image]; exact image_ok.2
  have hj : imageOk (.format 2) (stagedFree.stagedImage (.format 2)) = true := by rw [stagedFree_image]; exact image_ok.2
  refine ⟨staged, stagedFree, .format 2, by decide, ?_, ?_, ?_, hf, ?_, ?_, ⟨⟨?_, ?_, ?_⟩, ?_, ?_, ?_, rfl, rfl, hi⟩,
    ⟨?_, ?_, ?_⟩, ?_, ?_, ?_, rfl, rfl, hj⟩
  all_goals first
    | (unfold staged stagedWith; dsimp only; first | rfl | exact Nat.zero_lt_succ _ | decide)
    | (unfold stagedFree; dsimp only; first | rfl | exact Nat.zero_lt_succ _)

theorem witness_CommitAbandoned : running.commit.state = .idle ∧
    (∀ n ∈ [0, 1], ∃ s : State, s.ready ∧ s.device = .running ∧ s.commit.state = .waiting ∧ s.commit.written = n) ∧
    ∃ s : State, s.ready ∧ s.device = .running ∧ s.commit.state = .verifying :=
  ⟨rfl, fun n _ => ⟨{ running with commit := ⟨.waiting, .format 2, .valid, n, 0, false, .none⟩ }, ⟨rfl, rfl, Nat.zero_lt_succ _⟩, rfl, rfl, rfl⟩,
    { running with commit := ⟨.verifying, .format 2, .valid, 2, 0, false, .none⟩ }, ⟨rfl, rfl, by decide⟩, rfl, rfl⟩

/-- An EMPTY slot, an INVALID room slot with the port busy and free, a VALID format slot. -/
theorem witness_SlotErased : slotRefOf 4 1 2 = some (.room 3 2) ∧ slotRefOf 0 2 3 = some (.format 2) ∧
    busyPort.slotLocked (.room 3 2) = false ∧
    busyPort.slotProtected (.room 3 2) = false ∧ busyPort.slotLive (.room 3 2) = false ∧
    busyPort.slotLocked (.format 2) = false ∧
    busyPort.slotProtected (.format 2) = false ∧ busyPort.slotLive (.format 2) = false ∧
    (busyPort.slot (.room 3 2)).state = .empty ∧
    ((busyPort.onSlot (.room 3 2) fun x => { x with state := .invalid }).slot (.room 3 2)).state = .invalid ∧
    ((busyPort.onSlot (.format 2) fun x => { x with state := .valid }).slot (.format 2)).state = .valid ∧
    freePort.port = none ∧ freePort.scan = none ∧ freePort.findScreen Screen.loadWaits = none ∧ freePort.refreshes = [] := by
  decide +kernel

/-- A valid slot with no operation running, the port busy and free, and with one running. -/
theorem witness_PresetSelected : ∀ u ∈ [busyPort, freePort], ∃ s : State, s.ready ∧ s.device = .running ∧
    (s.screen 3).showLock = false ∧ (s.slot (.room 3 2)).state = .valid ∧ (s.screen 3).running = none ∧ s.port = u.port ∧
    s.findScreen Screen.loadWaits = none ∧
    ((s.setScreen 3 { Screen.reset with running := some ⟨.slot 1, .loading⟩ }).screen 3).running ≠ none := by
  intro u hu
  refine ⟨u.onSlot (.room 3 2) fun x => { x with state := .valid }, ?_⟩
  rcases List.mem_cons.mp hu with rfl | hu
  · exact ⟨⟨rfl, rfl, by decide⟩, rfl, by decide +kernel, by decide +kernel, by decide +kernel, rfl, by decide +kernel,
      by decide +kernel⟩
  · rw [List.mem_singleton] at hu; subst hu
    exact ⟨⟨rfl, rfl, by decide⟩, rfl, by decide +kernel, by decide +kernel, by decide +kernel, rfl, by decide +kernel,
      by decide +kernel⟩

/-- A cached format and the release. -/
theorem witness_FormatOverridden : overrideField 0 = some (some 0) ∧ overrideField 255 = some none ∧
    (running.cache[(0 : Fin 16)]).isSome = true ∧ (running.screen 3).showLock = false := by decide +kernel

theorem witness_GainRequests : running.ready ∧ running.device = .running ∧ screenOf 4 = some 3 := ready_running

/-- The body of a CUE-INSERT: id 7 at 15:20, STATE, MUTE; its screen has two cues and is not locked, TRACKING at 20:00. -/
theorem witness_CueInserted : ∃ (s : State) (c : Cue), s.ready ∧ s.device = .running ∧ (s.screen 0).showLock = false ∧
    cueOf (toBytes 2 (7 : Half).toNat ++ toBytes 3 (15 : Frame).toNat ++ [20, 1, 6] ++ toBytes 2 (0 : Half).toNat ++
      toBytes 2 (0 : Half).toNat) = some c ∧ (∀ d ∈ (s.screen 0).cues, d.id ≠ c.id) ∧ s.freeCues ≠ 0 ∧
    (s.screen 0).cues.length < 256 ∧ (s.screen 0).counter < 4294967295 ∧ (s.screen 0).tracking = true ∧
    (s.screen 0).enginePos = some ⟨20, 0⟩ ∧ c.pos.upTo ⟨20, 0⟩ = true ∧ (running.screen 0).tracking = false :=
  ⟨tracking, ⟨7, ⟨15, 20⟩, true, .mute, 0, false⟩, ⟨rfl, rfl, by decide⟩, rfl, by decide +kernel, by decide +kernel,
    by decide +kernel, by decide +kernel, by decide +kernel, by decide +kernel, by decide +kernel, by decide +kernel,
    by decide, by decide +kernel⟩

theorem witness_CueDeletions : (tracking.screen 0).cueIndex (2 : Half).toNat = some 1 ∧
    (tracking.screen 0).showLock = false ∧ screenOf 1 = some 0 ∧ (tracking.screen 0).tracking = true ∧
    ((tracking.screen 0).cues.map Cue.id).Nodup ∧ (running.screen 0).tracking = false := by decide +kernel

/-- A range of one position, at the highest block index. -/
theorem witness_CueTagsAndReads : (⟨(10 : Frame).toNat, (49 : Byte).toNat⟩ : Position).upTo ⟨(10 : Frame).toNat, (49 : Byte).toNat⟩ = true ∧
    (49 : Byte).toNat ≤ 49 ∧ 49 < (50 : Byte).toNat ∧ (tracking.screen 0).cueIndex (1 : Half).toNat = some 0 ∧
    (tracking.screen 0).cueIndex (9 : Half).toNat = none := by decide +kernel

/-- Booth line 4 driven by screen 1's cues. -/
def cueLine : State := tracking.setLine 4 ⟨some 0, .cue, false, false, 0, .steady, false, false, 0, 0, 0⟩

/-- A STATE cue before the landing that no later one of its key follows; an event that follows on and one that does not; a
line, a slot, a format and a full mark queue with which a cue succeeds and fails. -/
theorem witness_EngineFollows :
    (showList = showList.take 5 ++ ⟨5, ⟨48, 0⟩, true, .lineSet 7 true, 5, false⟩ :: showList.drop 6 ∧
      (⟨48, 0⟩ : Position).before ⟨60, 0⟩ = true ∧
      ∀ d ∈ showList.drop 6, d.isState = true → d.pos.before ⟨60, 0⟩ = true → d.action.key ≠ some (.line 7)) ∧
    (tracking.screen 0).continuous ⟨⟨20, 1⟩, some ⟨20, 0⟩, 0, false, 0⟩ = true ∧
    (tracking.screen 0).continuous ⟨⟨20, 2⟩, some ⟨20, 0⟩, 0, false, 0⟩ = false ∧
    ((cueLine.line 4).owner = some 0 ∧ (cueLine.line 4).source = .cue ∧ (cueLine.line 5).owner ≠ some 0) ∧
    (tracking.slot (.room 0 1)).state ≠ .valid ∧ (tracking.cache[(0 : Fin 16)]).isSome = true ∧
    (tracking.cache[(5 : Fin 16)]).isSome = false ∧ tracking.marks.length < 16 ∧ (tracking.screen 0).cue.state ≠ .active := by
  decide +kernel

theorem witness_AlarmAcknowledged : running.ready ∧ running.device = .running ∧ screenOf 4 = some 3 := ready_running

theorem witness_RestoreAndReset : ∃ s : State, s.ready ∧ s.device = .running ∧ (s.feed 3 6).folded = true ∧
    (6 : Byte).toNat = (6 : Fin 16).val :=
  ⟨running.setScreen 3 (Screen.reset.setFeed 6 { Feed.reset 6 with folded := true }), ⟨rfl, rfl, by decide⟩, rfl,
    by decide +kernel, by decide⟩

/-- No operation running, with SAFE as the boot choice, a slot with the boot flag and slot 0, behind other store work and with
the port free; an operation running; a CUE line of the screen and one of another. -/
theorem witness_ScreenRestarted : busyPort.ready ∧ busyPort.device = .running ∧ (busyPort.screen 3).showLock = false ∧
    busyPort.port ≠ none ∧ (busyPort.screen 3).running = none ∧ busyPort.bootChoice 3 = .safe ∧
    (∀ b, ∃ s : State, s.ready ∧ s.port = none ∧ s.scan = none ∧ s.findScreen Screen.loadWaits = none ∧
      (s.slot (.room 3 0)).state = .valid ∧ (s.slot (.room 3 0)).boot = b ∧ s.bootChoice 3 = .slot 0) ∧
    (busyPort.setScreen 3 { Screen.reset with running := some ⟨.slot 1, .loading⟩ }).screen 3 ≠ Screen.reset ∧
    (cueLine.line 4).owner = some 0 ∧ (cueLine.line 4).source = .cue ∧ (cueLine.line 5).owner = none := by
  refine ⟨ready_busy.1, rfl, by decide +kernel, by decide, by decide +kernel, by decide +kernel, fun b =>
    ⟨freePort.onSlot (.room 3 0) fun x => { x with state := .valid, boot := b }, ⟨rfl, rfl, Nat.zero_lt_succ _⟩, rfl, rfl,
      by cases b <;> decide +kernel, by cases b <;> decide +kernel, by cases b <;> decide +kernel, by cases b <;> decide +kernel⟩, ?_⟩
  decide +kernel

/-- Each queue in turn at the head of the order, the replies' head complete and not, a message in the hold buffer. -/
theorem witness_ArbiterOrders : (∃ s : State, (∃ r rest, s.replies = r :: rest ∧ r.complete = true ∧ rest.length < 8) ∧
      s.holdBuf ≠ none ∧ s.held = none ∧ s.marks = [] ∧
      s.storeNotices = [] ∧ s.alarms = [⟨.trunk, true, 1, 0, none⟩] ∧ ∀ id, (s.source id).unreported = false) ∧
    (SourceId.trunk :: allSources.tail = allSources) ∧
    (State.source { running with trunk := ⟨.active, 0, true, true, 2⟩ } .trunk).unreported = true := by
  refine ⟨⟨{ running with
    replies := [⟨0x1C, 9, 4, .done, false, [], true⟩], alarms := [⟨.trunk, true, 1, 0, none⟩]
    holdBuf := some ⟨0x1C, 9, 4, []⟩ }, ⟨_, _, rfl, rfl, by decide⟩, by decide, rfl, rfl, rfl, rfl, fun id => ?_⟩, rfl, rfl⟩
  have h := source_running id
  cases id <;> exact congrArg Source.unreported h

end Sys2Proof.Tests
end

/-! The ramps under their boundary step (R53) and their loading (R54). -/

namespace Sys2Proof.Machine

/-! ### One boundary step -/

theorem Ramp.step_of_remaining_eq_zero {r : Ramp} (h : r.remaining = 0) : r.step = r := if_pos h

theorem Ramp.step_of_remaining_ne_zero {r : Ramp} (h : r.remaining ≠ 0) :
    r.step = { r with
      current := ((r.current : Int) + ((r.target : Int) - r.current).tdiv r.remaining).toNat
      remaining := r.remaining - 1 } := if_neg h

@[simp] theorem Ramp.step_target (r : Ramp) : r.step.target = r.target := by
  by_cases h : r.remaining = 0
  · rw [step_of_remaining_eq_zero h]
  · rw [step_of_remaining_ne_zero h]

@[simp] theorem Ramp.step_remaining (r : Ramp) : r.step.remaining = r.remaining - 1 := by
  by_cases h : r.remaining = 0
  · rw [step_of_remaining_eq_zero h, h]
  · rw [step_of_remaining_ne_zero h]

/-- With one boundary left the division is by 1, so the step covers the whole distance (R53). -/
theorem Ramp.step_current_of_remaining_eq_one {r : Ramp} (h : r.remaining = 1) : r.step.current = r.target := by
  simp [step_of_remaining_ne_zero (h ▸ one_ne_zero), h]

/-- With no distance left the step is 0, whatever the remaining count (R53). -/
theorem Ramp.step_current_of_current_eq_target {r : Ramp} (h : r.current = r.target) : r.step.current = r.target := by
  by_cases hr : r.remaining = 0
  · rw [step_of_remaining_eq_zero hr, h]
  · simp [step_of_remaining_ne_zero hr, h]

/-! ### A run of boundary steps -/

@[simp] theorem Ramp.iterate_step_target (r : Ramp) (n : Nat) : (Ramp.step^[n] r).target = r.target := by
  induction n with
  | zero => rfl
  | succ n ih => rw [Function.iterate_succ_apply', step_target, ih]

@[simp] theorem Ramp.iterate_step_remaining (r : Ramp) (n : Nat) :
    (Ramp.step^[n] r).remaining = r.remaining - n := by
  induction n with
  | zero => rfl
  | succ n ih => rw [Function.iterate_succ_apply', step_remaining, ih, Nat.sub_sub]

/-- The last of the counted steps is made with a remaining count of 1, wherever those before it have brought the value. -/
theorem Ramp.iterate_step_current_of_remaining {r : Ramp} {n : Nat} (h : r.remaining = n + 1) :
    (Ramp.step^[n + 1] r).current = r.target := by
  have last : (Ramp.step^[n] r).remaining = 1 := by rw [iterate_step_remaining, h, Nat.add_sub_cancel_left]
  rw [Function.iterate_succ_apply', step_current_of_remaining_eq_one last, iterate_step_target]

theorem Ramp.iterate_step_current_of_current_eq_target {r : Ramp} (h : r.current = r.target) (n : Nat) :
    (Ramp.step^[n] r).current = r.target := by
  induction n with
  | zero => exact h
  | succ n ih =>
    have still : (Ramp.step^[n] r).current = (Ramp.step^[n] r).target := by rw [ih, iterate_step_target]
    rw [Function.iterate_succ_apply', step_current_of_current_eq_target still, iterate_step_target]

/-! ### Loading -/

theorem Ramp.load_eq (r : Ramp) (target count : Nat) :
    r.load target count = ⟨r.current, r.current, target, max 1 count⟩ := by
  cases count with
  | zero => rfl
  | succ n => rw [Nat.max_eq_right n.succ_pos]; rfl

/-- Settles O21: the count falls by one at each boundary, the step made at a count of 1 lands on the target, and a step
from the target stays there. -/
theorem rampReachesTarget : Obligations.RampReachesTarget := by
  intro r target count
  obtain ⟨n, hn⟩ : ∃ n, max 1 count = n + 1 := Nat.exists_eq_add_of_le' (Nat.le_max_left 1 count)
  have loaded := r.load_eq target count
  refine ⟨loaded, ?lands, ?idle, ?counts, ?stays⟩
  case lands => rw [loaded, hn]; exact Ramp.iterate_step_current_of_remaining rfl
  case idle => rw [Ramp.iterate_step_remaining, loaded, Nat.sub_self]
  case counts => intro n; rw [Ramp.iterate_step_remaining, loaded]
  case stays =>
    intro still n
    rw [loaded]
    exact Ramp.iterate_step_current_of_current_eq_target still n

end Sys2Proof.Machine

/-! The table of an alarm source, the runs of steps that a hold or a release counts, and the sources at reset (R97). -/

namespace Sys2Proof.Machine

/-! ### The table of R97, a row at a time -/

section
variable {x : Source} {h r : Nat}

theorem Source.evaluate_true_of_clear (hx : x.state = .clear) : x.evaluate h r (some true) =
    if h ≤ 1 then ({ x with state := .active, count := 0, latched := true }, some true)
    else ({ x with state := .onset, count := 1 }, none) := by
  simp only [evaluate, hx]

theorem Source.evaluate_true_of_onset (hx : x.state = .onset) : x.evaluate h r (some true) =
    if h ≤ x.count + 1 then ({ x with state := .active, count := 0, latched := true }, some true)
    else ({ x with count := x.count + 1 }, none) := by
  simp only [evaluate, hx]

theorem Source.evaluate_true_of_active (hx : x.state = .active) : x.evaluate h r (some true) = (x, none) := by
  simp only [evaluate, hx]

theorem Source.evaluate_true_of_release (hx : x.state = .release) :
    x.evaluate h r (some true) = ({ x with state := .active, count := 0 }, none) := by
  simp only [evaluate, hx]

theorem Source.evaluate_false_of_clear (hx : x.state = .clear) : x.evaluate h r (some false) = (x, none) := by
  simp only [evaluate, hx]

theorem Source.evaluate_false_of_onset (hx : x.state = .onset) :
    x.evaluate h r (some false) = ({ x with state := .clear, count := 0 }, none) := by
  simp only [evaluate, hx]

theorem Source.evaluate_false_of_active (hx : x.state = .active) : x.evaluate h r (some false) =
    if r ≤ 1 then ({ x with state := .clear, count := 0 }, some false)
    else ({ x with state := .release, count := 1 }, none) := by
  simp only [evaluate, hx]

theorem Source.evaluate_false_of_release (hx : x.state = .release) : x.evaluate h r (some false) =
    if r ≤ x.count + 1 then ({ x with state := .clear, count := 0 }, some false)
    else ({ x with count := x.count + 1 }, none) := by
  simp only [evaluate, hx]

end

/-! ### Runs of one raw condition

A hold and a release count alike: the first step leaves the settled state `a`, the steps in between are counted in `b`, and
the step that makes the count up enters the settled state `c`. -/

/-- The step `f` takes a source from `a` to `c`, counting its steps in `b` up to `m`. -/
structure Source.CountsUp (f : Source → Source) (a b c : SourceState) (m : Nat) : Prop where
  begins : ∀ x, x.state = a → 1 < m → (f x).state = b ∧ (f x).count = 1
  crosses : ∀ x, x.state = a → m ≤ 1 → (f x).state = c
  counts : ∀ x, x.state = b → x.count + 1 < m → (f x).state = b ∧ (f x).count = x.count + 1
  ends : ∀ x, x.state = b → m ≤ x.count + 1 → (f x).state = c
  stays : ∀ x, x.state = c → (f x).state = c

section
variable {f : Source → Source} {a b c : SourceState} {m n : Nat} {x : Source}

/-- Short of `m` steps the source is still counting, with as many counted as were made. -/
theorem Source.CountsUp.iterate_of_lt (hf : CountsUp f a b c m) (hx : x.state = a) (hn : 1 ≤ n) :
    n < m → (f^[n] x).state = b ∧ (f^[n] x).count = n := by
  induction n, hn using Nat.le_induction with
  | base => exact hf.begins x hx
  | succ n _ ih =>
    intro hm
    obtain ⟨counting, count⟩ := ih (Nat.lt_of_succ_lt hm)
    have next := hf.counts _ counting (by rwa [count])
    rwa [count, ← Function.iterate_succ_apply' f] at next

/-- From the `m`-th step on the source has crossed. -/
theorem Source.CountsUp.iterate_of_le (hf : CountsUp f a b c m) (hx : x.state = a) (hn : 1 ≤ n) :
    m ≤ n → (f^[n] x).state = c := by
  induction n, hn using Nat.le_induction with
  | base => exact hf.crosses x hx
  | succ n hn ih =>
    intro hm
    rw [Function.iterate_succ_apply']
    rcases Nat.lt_or_ge n m with short | reached
    · obtain ⟨counting, count⟩ := hf.iterate_of_lt hx hn short
      exact hf.ends _ counting (by rwa [count])
    · exact hf.stays _ (ih reached)

theorem Source.CountsUp.iterate_state_iff (hf : CountsUp f a b c m) (hbc : b ≠ c) (hx : x.state = a) (hn : 1 ≤ n) :
    (f^[n] x).state = c ↔ m ≤ n := by
  refine ⟨fun crossed => ?_, hf.iterate_of_le hx hn⟩
  by_contra short
  exact hbc ((hf.iterate_of_lt hx hn (Nat.lt_of_not_le short)).1.symm.trans crossed)

end

theorem Source.evaluate_true_countsUp (h r : Nat) :
    CountsUp (fun y => (y.evaluate h r (some true)).1) .clear .onset .active h where
  begins x hx hm := by simp [evaluate_true_of_clear hx, Nat.not_le.mpr hm]
  crosses x hx hm := by simp [evaluate_true_of_clear hx, hm]
  counts x hx hm := by simp [evaluate_true_of_onset hx, Nat.not_le.mpr hm, hx]
  ends x hx hm := by simp [evaluate_true_of_onset hx, hm]
  stays x hx := by simp [evaluate_true_of_active hx, hx]

theorem Source.evaluate_false_countsUp (h r : Nat) :
    CountsUp (fun y => (y.evaluate h r (some false)).1) .active .release .clear r where
  begins x hx hm := by simp [evaluate_false_of_active hx, Nat.not_le.mpr hm]
  crosses x hx hm := by simp [evaluate_false_of_active hx, hm]
  counts x hx hm := by simp [evaluate_false_of_release hx, Nat.not_le.mpr hm, hx]
  ends x hx hm := by simp [evaluate_false_of_release hx, hm]
  stays x hx := by simp [evaluate_false_of_clear hx, hx]

/-! ### Reset -/

@[simp] theorem State.screen_reset (i : Fin 12) : State.reset.screen i = Screen.reset := by
  simp [State.screen, State.reset]

@[simp] theorem State.feed_reset (i : Fin 12) (k : Fin 16) : State.reset.feed i k = Feed.reset k := by
  simp [State.feed, Screen.feed, Screen.reset]

theorem State.source_reset (id : SourceId) : State.reset.source id = Source.reset := by
  cases id with
  | trunk | senselink => rfl
  | track i | dropout i | preset i | cue i => simp [State.source, Screen.reset]
  | overload i k | silent i k | mismatch i k => simp [State.source, Feed.reset]

/-- Settles O25: the table row by row, each run of one raw condition by the counting it shares with the other, and the
sources at reset. -/
theorem holdCountsSteps : Obligations.HoldCountsSteps := by
  refine ⟨fun x h r => ⟨rfl, fun hx => ?clear, fun hx => ?onset, fun hx => ?active, fun hx => ?release⟩,
    fun x h r n hn => ⟨fun hx => ?raised, fun hx => ?cleared⟩, fun id => ?atReset⟩
  case clear =>
    refine ⟨Source.evaluate_false_of_clear hx, fun hm => ?_, fun hm => ?_⟩
    · simp [Source.evaluate_true_of_clear hx, Nat.not_le.mpr hm]
    · simp [Source.evaluate_true_of_clear hx, hm]
  case onset =>
    rw [Source.evaluate_false_of_onset hx]
    refine ⟨rfl, rfl, rfl, fun hm => ?_, fun hm => ?_⟩
    · simp [Source.evaluate_true_of_onset hx, Nat.not_le.mpr hm, hx]
    · simp [Source.evaluate_true_of_onset hx, hm]
  case active =>
    refine ⟨Source.evaluate_true_of_active hx, fun hm => ?_, fun hm => ?_⟩
    · simp [Source.evaluate_false_of_active hx, Nat.not_le.mpr hm]
    · simp [Source.evaluate_false_of_active hx, hm]
  case release =>
    rw [Source.evaluate_true_of_release hx]
    refine ⟨rfl, rfl, rfl, fun hm => ?_, fun hm => ?_⟩
    · simp [Source.evaluate_false_of_release hx, Nat.not_le.mpr hm, hx]
    · simp [Source.evaluate_false_of_release hx, hm]
  case raised => exact (Source.evaluate_true_countsUp h r).iterate_state_iff (by decide) hx hn
  case cleared => exact (Source.evaluate_false_countsUp h r).iterate_state_iff (by decide) hx hn
  case atReset => rw [State.source_reset]; exact ⟨rfl, rfl⟩

end Sys2Proof.Machine

/-! The three ways the alarm queue takes a transition report (R125 to R127), and what a deferral leaves as it was. -/

namespace Sys2Proof.Machine

/-! ### A source's record replaced -/

@[simp] theorem State.setSource_alarms (s : State) (id : SourceId) (x : Source) :
    (s.setSource id x).alarms = s.alarms := by
  cases id <;> rfl

/-- What a test reads of the sources stays, when the record replaced answers the test as the one before it did. -/
theorem State.source_setSource_congr {α : Type} (read : Source → α) {s : State} {id : SourceId} {x : Source}
    (hx : read x = read (s.source id)) (id2 : SourceId) :
    read ((s.setSource id x).source id2) = read (s.source id2) := by
  rw [State.source_setSource]
  split
  case isTrue same => rw [same, hx]
  case isFalse => rfl

theorem State.anyActive_setSource {s : State} {id : SourceId} {x : Source} (hx : x.isUp = (s.source id).isUp)
    (i : Fin 12) : (s.setSource id x).anyActive i = s.anyActive i := by
  simp only [State.anyActive, State.source_setSource_congr Source.isUp hx]

theorem State.anyLatched_setSource {s : State} {id : SourceId} {x : Source}
    (hx : x.latched = (s.source id).latched) (i : Fin 12) : (s.setSource id x).anyLatched i = s.anyLatched i := by
  simp only [State.anyLatched, State.source_setSource_congr Source.latched hx]

/-! ### A report taken -/

section
variable {s : State} {id : SourceId} {raised : Bool} {q : Half} {v : Option Nat}

/-- Update in place (R126). -/
theorem State.takeReport_of_queued (hq : s.queued id = true) :
    s.takeReport id raised q v =
      { s with alarms := s.alarms.map fun r => if r.src = id then r.update raised q v else r } :=
  if_pos hq

/-- A new record at the tail (R126). -/
theorem State.takeReport_of_room (hq : s.queued id = false) (hu : (s.source id).unreported = false)
    (room : s.alarms.length < 64) :
    s.takeReport id raised q v = { s with alarms := s.alarms ++ [⟨id, raised, 1, q, v⟩] } := by
  rw [State.takeReport, if_neg (ne_true_of_eq_false hq), if_pos ⟨hu, room⟩]

/-- A deferral: behind an earlier one of the source, or at a full list (R127). -/
theorem State.takeReport_of_deferred (hq : s.queued id = false)
    (hd : (s.source id).unreported = true ∨ 64 ≤ s.alarms.length) :
    s.takeReport id raised q v = s.setSource id { s.source id with
      unreported := true, unreportedCount := countUp (s.source id).unreportedCount } := by
  have noRecord : ¬ ((s.source id).unreported = false ∧ s.alarms.length < Config.alarmPlaces) := by
    rintro ⟨hu, room⟩
    rcases hd with flag | full
    · exact ne_true_of_eq_false hu flag
    · exact Nat.not_le_of_lt room full
  rw [State.takeReport, if_neg (ne_true_of_eq_false hq), if_neg noRecord]

end

/-- Settles O26: each way of taking a report by its rule, and a deferral touches of its source's record neither the state
nor the latched flag. -/
theorem alarmQueueTakes : Obligations.AlarmQueueTakes := by
  intro s id raised q v
  refine ⟨State.takeReport_of_queued, State.takeReport_of_room, fun hq hd => ?deferred⟩
  rw [State.takeReport_of_deferred hq hd]
  exact ⟨rfl, State.setSource_alarms .., State.source_setSource_same ..,
    fun id2 other => by rw [State.source_setSource, if_neg other],
    fun i => ⟨State.anyActive_setSource (by rfl) i, State.anyLatched_setSource (by rfl) i⟩⟩

end Sys2Proof.Machine

/-! The four invariants of every step, each by the elementary changes that touch what it speaks of, and the part after reset
meets them (R66, R68, R71, R99, R123, R125, R137 to R139, R160, R176). -/

namespace Sys2Proof.Machine

-- One declaration after another, which keeps the memory of the whole text's compile low.
set_option Elab.async false

/-! ### The two stores -/

theorem State.keepsPeriod_storesCanonical : KeepsPeriod State.storesCanonical := by
  refine' {
    stageClear := fun s hs => ⟨rfl, hs.2⟩
    writeStaging := fun s n l hs => ⟨Memory.wf_writeAll _ _ _ _ hs.1, hs.2⟩
    writeArray := fun s n l hs => ⟨hs.1, Memory.wf_writeAll _ _ _ _ hs.2⟩
    source := fun s id x _ hs => by cases id <;> exact hs
    defer := fun s id n _ hs => by cases id <;> exact hs
    alarmRefill := fun s r l x id _ _ _ hs => by cases id <;> exact hs
    .. }
  all_goals intros; assumption

theorem State.cutWrite_of_none {s : State} (h : s.pageInWrite = none) : s.cutWrite = s := by
  rw [State.cutWrite, h]

theorem State.cutWrite_array_of_some {s : State} {id : SlotId} {page : Nat} (h : s.pageInWrite = some (id, page)) :
    s.cutWrite.array =
      s.array.writeAll arrayDefault (id.base + Config.pageSize * page) (cutBytes s.freeCount) := by
  simp only [State.cutWrite, h, State.writeArray]

theorem State.afterReset_storesCanonical {s : State} (hs : s.storesCanonical) : s.afterReset.storesCanonical := by
  refine ⟨rfl, ?_⟩
  show Memory.wf arrayDefault s.cutWrite.array = true
  rcases h : s.pageInWrite with _ | ⟨id, page⟩
  · rw [State.cutWrite_of_none h]
    exact hs.2
  · rw [State.cutWrite_array_of_some h]
    exact Memory.wf_writeAll _ _ _ _ hs.2

/-- Settles O6: the three changes that write a store keep its form, and so does a page write that a RESET cuts. -/
theorem stepKeepsStores : Obligations.StepKeepsStores := fun _ _ hs ht =>
  step_keeps State.keepsPeriod_storesCanonical (fun _ => State.afterReset_storesCanonical) (fun _ _ h => h) hs ht

/-! ### Alarm sources -/

section
variable {s : State} {i : Fin 12}

/-- A change of a screen's cue list, cue engine and show lock alone leaves every source. -/
theorem State.source_onScreen_engine {f : Screen → Screen}
    (h : ∀ x, f x = { x with
      cues := (f x).cues, counter := (f x).counter, tracking := (f x).tracking, enginePos := (f x).enginePos
      pointer := (f x).pointer, showLock := (f x).showLock } := by exact fun _ => rfl) (id : SourceId) :
    (s.onScreen i f).source id = s.source id := by
  refine State.source_onScreen s i f ?_ ?_ ?_ ?_ ?_ ?_ ?_ id <;> intro x <;> rw [h x] <;> exact fun _ => rfl

/-- A change of a screen that leaves what the events of its alarm sources change leaves every source. -/
theorem Screen.Tracked.source_setScreen {y : Screen} (h : (s.screen i).Tracked y) (id : SourceId) :
    (s.setScreen i y).source id = s.source id :=
  State.source_setScreen s i y h.track h.dropout h.preset h.cue h.overload h.silent h.mismatch id

theorem State.source_afterReset (id : SourceId) : s.afterReset.source id = Source.reset := by
  rw [← State.source_reset id]
  cases id <;> rfl

theorem State.latchesHold_of_source {t : State} (h : ∀ id, t.source id = s.source id) (hs : s.latchesHold) :
    t.latchesHold := fun id => by rw [h id]; exact hs id

theorem State.latchesHold_setSource {id : SourceId} {x : Source} (hx : x.Latches) (hs : s.latchesHold) :
    (s.setSource id x).latchesHold := by
  intro j
  rw [State.source_setSource]
  split
  · exact hx
  · exact hs j

end

theorem State.keepsPeriod_latchesHold : KeepsPeriod State.latchesHold := by
  refine' {
    screen := fun s i y hy => State.latchesHold_of_source hy.tracked.source_setScreen
    track := fun s i y hy => State.latchesHold_of_source hy.source_setScreen
    source := fun s id x hx hs => State.latchesHold_setSource (hx.latches (hs id)) hs
    defer := fun s id n _ hs => State.latchesHold_setSource (hs id) hs
    alarmRefill := fun s r l x id _ _ _ hs => State.latchesHold_setSource (hs id) hs
    arrive := fun s i p => State.latchesHold_of_source State.source_onScreen_engine
    insert := fun s i c _ => State.latchesHold_of_source State.source_onScreen_engine
    remove := fun s i g => State.latchesHold_of_source State.source_onScreen_engine
    clear := fun s i => State.latchesHold_of_source State.source_onScreen_engine
    restartCues := fun s i => State.latchesHold_of_source State.source_onScreen_engine
    retag := fun s i f _ => State.latchesHold_of_source State.source_onScreen_engine
    lock := fun s i v => State.latchesHold_of_source State.source_onScreen_engine
    .. }
  all_goals intros; assumption

/-- Settles O8: a source changes by sound steps alone, and every screen's other changes leave its sources. -/
theorem stepKeepsLatches : Obligations.StepKeepsLatches := fun _ _ hs ht =>
  step_keeps State.keepsPeriod_latchesHold (fun s _ id => by rw [s.source_afterReset id]; exact nofun) (fun _ _ h => h) hs ht

section
variable {s : State} {i : Fin 12}

/-! ### One record at most for a source -/

theorem State.queued_eq_true_iff (id : SourceId) : s.queued id = true ↔ id ∈ s.alarms.map AlarmRecord.src := by
  simp [State.queued]

theorem State.queued_eq_false_iff (id : SourceId) : s.queued id = false ↔ id ∉ s.alarms.map AlarmRecord.src := by
  rw [← State.queued_eq_true_iff, Bool.not_eq_true]

theorem State.reportsOnce_iff : s.reportsOnce ↔ (s.alarms.map AlarmRecord.src).Nodup ∧
    ∀ id, (s.source id).unreported = true → id ∉ s.alarms.map AlarmRecord.src := by
  simp only [State.reportsOnce, State.queued_eq_false_iff]

/-- The list of the sources with a record and the unreported flags are all that `reportsOnce` speaks of. -/
theorem State.reportsOnce_congr {t : State} (ha : t.alarms.map AlarmRecord.src = s.alarms.map AlarmRecord.src)
    (hu : ∀ id, (t.source id).unreported = (s.source id).unreported) (hs : s.reportsOnce) : t.reportsOnce := by
  rw [State.reportsOnce_iff] at hs ⊢
  rw [ha]
  exact ⟨hs.1, fun id h => hs.2 id (hu id ▸ h)⟩

theorem State.reportsOnce_of_source {t : State} (ha : t.alarms = s.alarms) (h : ∀ id, t.source id = s.source id) :
    s.reportsOnce → t.reportsOnce :=
  State.reportsOnce_congr (by rw [ha]) fun id => by rw [h id]

theorem State.reportsOnce_setSource {id : SourceId} {x : Source} (hx : x.unreported = true → s.queued id = false)
    (hs : s.reportsOnce) : (s.setSource id x).reportsOnce := by
  rw [State.reportsOnce_iff] at hs ⊢
  rw [State.setSource_alarms]
  refine ⟨hs.1, fun j hj => ?_⟩
  rw [State.source_setSource] at hj
  split at hj
  case isTrue same => subst same; exact (State.queued_eq_false_iff j).mp (hx hj)
  case isFalse => exact hs.2 j hj

theorem State.reportsOnce_addRecord {r : AlarmRecord} (hq : s.queued r.src = false)
    (hu : (s.source r.src).unreported = false) (hs : s.reportsOnce) :
    ({ s with alarms := s.alarms ++ [r] } : State).reportsOnce := by
  rw [State.reportsOnce_iff] at hs ⊢
  rw [State.queued_eq_false_iff] at hq
  refine ⟨?_, fun id hid => ?_⟩
  · rw [List.map_append, List.nodup_append]
    exact ⟨hs.1, List.nodup_singleton _, fun a ha b hb => by rw [List.eq_of_mem_singleton hb]; rintro rfl; exact hq ha⟩
  · rw [State.source_alarms] at hid
    rw [List.map_append, List.mem_append, not_or]
    refine ⟨hs.2 id hid, fun hm => ?_⟩
    rw [List.eq_of_mem_singleton hm, hu] at hid
    exact Bool.noConfusion hid

theorem State.reportsOnce_tail {r : AlarmRecord} {l : List AlarmRecord} (hl : s.alarms = r :: l) (hs : s.reportsOnce) :
    ({ s with alarms := l } : State).reportsOnce := by
  rw [State.reportsOnce_iff, hl] at hs
  rw [State.reportsOnce_iff]
  refine ⟨(List.nodup_cons.mp hs.1).2, fun id hid hm => hs.2 id ?_ (List.mem_cons_of_mem _ hm)⟩
  rwa [State.source_alarms] at hid

/-- A record leaves and one is built for a source that was deferred: it had none, and its flag is then clear. -/
theorem State.reportsOnce_refill {r x : AlarmRecord} {l : List AlarmRecord} {n : Nat} (hl : s.alarms = r :: l)
    (hu : (s.source x.src).unreported = true) (hs : s.reportsOnce) :
    (State.setSource { s with alarms := l ++ [x] } x.src
      { s.source x.src with unreported := false, unreportedCount := n }).reportsOnce := by
  have noRecord : x.src ∉ l.map AlarmRecord.src := fun hm =>
    (State.reportsOnce_iff.mp hs).2 _ hu (by rw [hl]; exact List.mem_cons_of_mem _ hm)
  have left := State.reportsOnce_iff.mp (State.reportsOnce_tail hl hs)
  rw [State.reportsOnce_iff, State.setSource_alarms]
  refine ⟨?_, fun id hid => ?_⟩
  · rw [List.map_append, List.nodup_append]
    exact ⟨left.1, List.nodup_singleton _, fun a ha b hb => by rw [List.eq_of_mem_singleton hb]; rintro rfl; exact noRecord ha⟩
  · rw [State.source_setSource] at hid
    split at hid
    case isTrue => exact Bool.noConfusion hid
    case isFalse other =>
      rw [List.map_append, List.mem_append, not_or]
      exact ⟨left.2 id hid, fun hm => other (List.eq_of_mem_singleton hm)⟩

end

theorem State.keepsPeriod_reportsOnce : KeepsPeriod State.reportsOnce := by
  refine' {
    screen := fun s i y hy => State.reportsOnce_of_source rfl hy.tracked.source_setScreen
    track := fun s i y hy => State.reportsOnce_of_source rfl hy.source_setScreen
    source := fun s id x hx hs => State.reportsOnce_setSource (fun hu => hs.2 id (hx.unreported ▸ hu)) hs
    defer := fun s id n hq hs => State.reportsOnce_setSource (fun _ => hq) hs
    alarmUpdate := fun s l hl hs => State.reportsOnce_congr hl (fun id => by rw [State.source_alarms]) hs
    alarmAdd := fun s r hq hu _ hs => State.reportsOnce_addRecord hq hu hs
    alarmLeaves := fun s r l hl hs => State.reportsOnce_tail hl hs
    alarmRefill := fun s r l x id hl hx hu hs => by subst hx; exact State.reportsOnce_refill hl hu hs
    arrive := fun s i p => State.reportsOnce_of_source rfl State.source_onScreen_engine
    insert := fun s i c _ => State.reportsOnce_of_source rfl State.source_onScreen_engine
    remove := fun s i g => State.reportsOnce_of_source rfl State.source_onScreen_engine
    clear := fun s i => State.reportsOnce_of_source rfl State.source_onScreen_engine
    restartCues := fun s i => State.reportsOnce_of_source rfl State.source_onScreen_engine
    retag := fun s i f _ => State.reportsOnce_of_source rfl State.source_onScreen_engine
    lock := fun s i v => State.reportsOnce_of_source rfl State.source_onScreen_engine
    .. }
  all_goals intros; assumption

/-! ### The places of the queues -/

/-- Alarm list, mark notices and replies within their places (R123, R160, R176). -/
def State.listsBounded (s : State) : Prop := s.alarms.length ≤ 64 ∧ s.marks.length ≤ 16 ∧ s.replies.length ≤ 8

theorem State.keepsPeriod_listsBounded : KeepsPeriod State.listsBounded := by
  refine' {
    source := fun s id x _ hs => by cases id <;> exact hs
    defer := fun s id n _ hs => by cases id <;> exact hs
    alarmUpdate := fun s l hl ⟨ha, hs⟩ => ⟨by
      have same := congrArg List.length hl
      rw [List.length_map, List.length_map] at same
      exact same ▸ ha, hs⟩
    alarmAdd := fun s r _ _ room ⟨_, hs⟩ => ⟨by rw [List.length_append]; exact room, hs⟩
    alarmLeaves := fun s r l hl ⟨ha, hs⟩ => ⟨Nat.le_of_succ_le (by rwa [hl] at ha), hs⟩
    alarmRefill := fun s r l x id hl _ _ ⟨ha, hs⟩ => by
      have room : (l ++ [x]).length ≤ 64 := by rw [hl] at ha; rwa [List.length_append]
      cases id <;> exact ⟨room, hs⟩
    markAdd := fun s n room ⟨ha, _, hr⟩ => ⟨ha, by rw [List.length_append]; exact room, hr⟩
    markLeaves := fun s n l hl ⟨ha, hm, hr⟩ => ⟨ha, Nat.le_of_succ_le (by rwa [hl] at hm), hr⟩
    replyAdd := fun s r room ⟨ha, hm, _⟩ => ⟨ha, hm, by rw [List.length_append]; exact room⟩
    replyChange := fun s l hl ⟨ha, hm, hr⟩ => ⟨ha, hm, hl ▸ hr⟩
    replyLeaves := fun s r l hl ⟨ha, hm, hr⟩ => ⟨ha, hm, Nat.le_of_succ_le (by rwa [hl] at hr)⟩
    .. }
  all_goals intros; assumption

/-! ### The place of a commit's STORE notice -/

/-- STORE notices within their places, with one kept for the commit in progress (R66, R68, R71). -/
def State.noticeRoom (s : State) : Prop := s.storeNotices.length ≤ 4 ∧ s.commitInStep

theorem PortWork.CommitIn.inStep {w : PortWork} {x : CommitState} (h : w.CommitIn x) :
    x ≠ .idle ∧ (w = .commitWrite → x = .writing) ∧ (w = .commitVerify → x = .verifying) := by
  rcases h with ⟨rfl, rfl⟩ | ⟨rfl, rfl⟩ <;> decide

/-- While a commit is in no unit's state, no unit of a commit holds the port. -/
theorem State.commitInStep.not_ofCommit {s : State} (hs : s.commitInStep) (hw : s.commit.state ≠ .writing)
    (hv : s.commit.state ≠ .verifying) {p : PortUnit} (hp : s.port = some p) : ¬ p.work.OfCommit := by
  rintro (w | v)
  · exact hw ((hs.2 p hp).1 w)
  · exact hv ((hs.2 p hp).2 v)

/-- Where no unit of a commit holds the port, the port asks nothing of the commit's state. -/
theorem State.commitInStep_of_not_ofCommit {s : State} (hn : s.commit.state ≠ .idle → s.storeNotices.length < 4)
    (hp : ∀ p, s.port = some p → ¬ p.work.OfCommit) : s.commitInStep :=
  ⟨hn, fun p e => ⟨fun w => absurd (Or.inl w) (hp p e), fun v => absurd (Or.inr v) (hp p e)⟩⟩

/-- As after reset: no commit, and the start-up scan at the port (R68, R87). -/
theorem State.commitInStep_of_scan {s : State} {n : Nat} (hc : s.commit.state = .idle)
    (hp : s.port = some ⟨.scan, n⟩) : s.commitInStep :=
  State.commitInStep_of_not_ofCommit (absurd hc) fun p e => by
    rw [hp] at e
    cases e
    rintro (w | w) <;> cases w

theorem State.noticeRoom_portTo {s : State} {c : Commit} {w : PortWork} {n : Nat} (hs : s.noticeRoom)
    (hc : c.state ≠ .idle → s.storeNotices.length < 4)
    (hw : (w = .commitWrite → c.state = .writing) ∧ (w = .commitVerify → c.state = .verifying)) :
    ({ s with port := some ⟨w, n⟩, commit := c } : State).noticeRoom :=
  ⟨hs.1, hc, fun p e => by cases e; exact hw⟩

theorem State.keepsPeriod_noticeRoom : KeepsPeriod State.noticeRoom := by
  refine' {
    source := fun s id x _ hs => by cases id <;> exact hs
    defer := fun s id n _ hs => by cases id <;> exact hs
    alarmRefill := fun s r l x id _ _ _ hs => by cases id <;> exact hs
    portTo := fun s w n hw hs => State.noticeRoom_portTo hs hs.2.1
      ⟨fun e => absurd (Or.inl e) hw, fun e => absurd (Or.inr e) hw⟩
    portFree := fun s hs => ⟨hs.1, hs.2.1, nofun⟩
    portAge := fun s ⟨hn, hc, hp⟩ => ⟨hn, hc, fun p e => by
      obtain ⟨q, hq, rfl⟩ := Option.map_eq_some_iff.mp e
      exact hp q hq⟩
    commitUnit := fun s w c hw hc hs => State.noticeRoom_portTo hs (fun _ => hs.2.1 (by rw [hw]; decide)) hc.inStep.2
    commitWaits := fun s c p hp hw _ hs => ⟨hs.1, fun _ => hs.2.1 fun idle =>
      hs.2.not_ofCommit (by rw [idle]; decide) (by rw [idle]; decide) hp hw, nofun⟩
    commitNext := fun s c hc ⟨hn, hi, hp⟩ => ⟨hn, hc ▸ hi, fun p e => by rw [hc]; exact hp p e⟩
    commitEnds := fun s c n hw hc hs => ⟨by rw [List.length_append]; exact hs.2.1 (by rw [hw]; decide),
      State.commitInStep_of_not_ofCommit (absurd hc)
        fun p hp => hs.2.not_ofCommit (by rw [hw]; decide) (by rw [hw]; decide) hp⟩
    commitBegin := fun s c hi hn _ hs => ⟨hs.1, State.commitInStep_of_not_ofCommit (fun _ => hn)
      fun p hp => hs.2.not_ofCommit (by rw [hi]; decide) (by rw [hi]; decide) hp⟩
    noticeLeaves := fun s n l hl ⟨hn, hc, hp⟩ => by
      rw [hl] at hn
      refine ⟨Nat.le_of_succ_le hn, fun h => Nat.lt_of_succ_lt (by have := hc h; rwa [hl] at this), hp⟩
    .. }
  all_goals intros; assumption

/-- Settles O7: the lists' places, the place kept for a commit's notice, and the one record for a source are each kept by
every elementary change. -/
theorem stepKeepsQueues : Obligations.StepKeepsQueues := by
  intro s t ⟨⟨ha, hm, hr, hn⟩, hc, ho⟩ ht
  have lists : t.listsBounded := step_keeps State.keepsPeriod_listsBounded
    (fun _ _ => ⟨Nat.zero_le _, Nat.zero_le _, Nat.zero_le _⟩) (fun _ _ h => h) ⟨ha, hm, hr⟩ ht
  have room : t.noticeRoom := step_keeps State.keepsPeriod_noticeRoom
    (fun _ _ => ⟨Nat.zero_le _, State.commitInStep_of_scan rfl rfl⟩) (fun _ _ h => h) ⟨hn, hc⟩ ht
  have once : t.reportsOnce := step_keeps State.keepsPeriod_reportsOnce
    (fun s _ => ⟨List.nodup_nil, fun _ _ => rfl⟩) (fun _ _ h => h) ho ht
  exact ⟨⟨lists.1, lists.2.1, lists.2.2, room.1⟩, room.2, once⟩

/-! ### Cue lists -/

section
variable {s : State} {i : Fin 12} {x y : Screen}

theorem Screen.Tracked.listOrdered (h : x.Tracked y) (hx : x.listOrdered) : y.listOrdered := by
  unfold Screen.listOrdered at hx ⊢
  rwa [h.cues, h.counter]

theorem Screen.Tracked.pointerInStep (h : x.Tracked y) (hx : x.pointerInStep) : y.pointerInStep := by
  intro ht
  rw [h.enginePos, h.pointer, h.cues]
  exact hx (h.tracking ht)

theorem Screen.clearCues_listOrdered (x : Screen) : x.clearCues.listOrdered :=
  ⟨List.Pairwise.nil, nofun, Nat.zero_le _⟩

theorem Screen.clearCues_pointerInStep (h : x.pointerInStep) : x.clearCues.pointerInStep := by
  intro ht
  obtain ⟨p, hp, -⟩ := h ht
  exact ⟨p, hp, Nat.le_refl _, nofun, nofun⟩

theorem State.cuesInOrder_of_tracked (h : (s.screen i).Tracked y) (hs : s.cuesInOrder) : (s.setScreen i y).cuesInOrder :=
  State.setScreen_cues s i y hs (h.listOrdered (hs.1 i).1) (h.pointerInStep (hs.1 i).2) (by rw [h.cues])

theorem State.cuesInOrder_setSource (id : SourceId) (z : Source) (hs : s.cuesInOrder) : (s.setSource id z).cuesInOrder := by
  cases id with
  | trunk | senselink => exact hs
  | _ => exact s.setScreen_cues _ _ hs (hs.1 _).1 (hs.1 _).2 (Nat.le_refl _)

end

theorem State.keepsPeriod_cuesInOrder : KeepsPeriod State.cuesInOrder := by
  refine' {
    screen := fun s i y hy => State.cuesInOrder_of_tracked hy.tracked
    track := fun s i y hy => State.cuesInOrder_of_tracked hy
    source := fun s id x _ => State.cuesInOrder_setSource id x
    defer := fun s id n _ => State.cuesInOrder_setSource id _
    alarmRefill := fun s r l x id _ _ _ hs => State.cuesInOrder_setSource (s := { s with alarms := l ++ [x] }) id _ hs
    arrive := fun s i p hs => s.setScreen_cues i _ hs (hs.1 i).1 (Screen.arrive_pointer _ p (hs.1 i).1) (Nat.le_refl _)
    insert := fun s i c hc => s.insert_cues i c hc
    remove := fun s i g hs => s.setScreen_cues i _ hs (Screen.remove_ordered _ g (hs.1 i).1)
      (Screen.remove_pointer _ g (hs.1 i).2) (List.length_filter_le _ _)
    clear := fun s i hs => s.setScreen_cues i _ hs (Screen.clearCues_listOrdered _)
      (Screen.clearCues_pointerInStep (hs.1 i).2) (Nat.zero_le _)
    restartCues := fun s i hs => s.setScreen_cues i _ hs (s.screen i).clearCues_listOrdered nofun (Nat.zero_le _)
    retag := fun s i f hf hs => s.setScreen_cues i _ hs (Screen.retag_ordered (s.screen i) f hf (hs.1 i).1)
      (Screen.retag_pointer _ f hf (hs.1 i).2) (by rw [List.length_map])
    lock := fun s i v hs => s.setScreen_cues i _ hs (hs.1 i).1 (hs.1 i).2 (Nat.le_refl _)
    .. }
  all_goals intros; assumption

theorem State.cuesInOrder_of_reset {s : State} (h : ∀ i, s.screen i = Screen.reset) : s.cuesInOrder := by
  refine ⟨fun i => ?_, ?_⟩
  · rw [h i]
    exact ⟨⟨List.Pairwise.nil, nofun, Nat.zero_le _⟩, nofun⟩
  · simp only [h]
    decide

/-- Settles O9: each edit of a list and each arrival of an engine keeps order and pointer, all else leaves them. -/
theorem stepKeepsCueLists : Obligations.StepKeepsCueLists := fun _ _ hs ht =>
  step_keeps State.keepsPeriod_cuesInOrder (fun _ _ => State.cuesInOrder_of_reset State.screen_reset) (fun _ _ h => h) hs ht

/-! ### Reset -/

/-- Settles O5: after reset the stores, the queues and the cue lists are empty, and every source is CLEAR. -/
theorem resetMeetsInvariants : Obligations.ResetMeetsInvariants :=
  ⟨⟨rfl, rfl⟩,
    ⟨⟨Nat.zero_le _, Nat.zero_le _, Nat.zero_le _, Nat.zero_le _⟩,
      State.commitInStep_of_scan rfl rfl,
      List.nodup_nil, fun _ _ => rfl⟩,
    fun id => by rw [State.source_reset id]; exact nofun, State.cuesInOrder_of_reset State.screen_reset⟩

end Sys2Proof.Machine

/-! One step, and the part after a RESET, in a page write and outside one (R62, R63, R86). -/

namespace Sys2Proof.Machine

set_option Elab.async false

/-- Settles O1: by the two shapes of the queue. -/
theorem stepRunsFront : Obligations.StepRunsFront := by
  refine fun s => ⟨fun h => ?_, fun c rest h => ?_⟩ <;> rw [step, h]

/-- Settles O2: with no page write to cut, the array and the marks are those that were. -/
theorem resetLeaves : Obligations.ResetLeaves := by
  intro s h
  show Host.Outcome.next s.afterReset = _
  rw [State.afterReset, State.cutWrite_of_none h]
  rfl

@[simp] theorem State.line_reset (n : Fin 24) : State.reset.line n = Line.reset := by simp [State.line, State.reset]

@[simp] theorem State.slot_reset (id : SlotId) : State.reset.slot id = Slot.reset id.index .blank := by
  simp [State.slot, State.reset]

theorem State.cache_reset (c : Fin 16) : State.reset.cache[c] = if c = 0 then some format0 else none := by
  show cacheReset[c] = _
  simp [cacheReset]

/-- Settles O3: every screen, feed, source, line and slot is its record after reset, which the rules give. -/
theorem resetValues : Obligations.ResetValues := by
  refine ⟨rfl, rfl, rfl, rfl, rfl, ?ports, fun i => ?screens, fun i k => ?feeds, fun id => ?sources, State.line_reset,
    fun id => ?slots, fun c => ?cache, rfl, rfl, rfl, rfl, rfl, rfl, rfl, rfl, fun _ => rfl⟩
  case ports => simp [State.reset, LockMachine.reset]
  case screens => 
    rw [State.screen_reset]
    exact ⟨rfl, rfl, rfl, rfl, rfl, rfl, rfl, rfl, rfl, rfl, rfl, rfl, rfl, rfl, rfl⟩
  case feeds => rw [State.feed_reset]; exact ⟨rfl, rfl, rfl, rfl, rfl⟩
  case sources => rw [State.source_reset]; exact ⟨rfl, rfl, rfl, rfl⟩
  case slots => rw [State.slot_reset]; rfl
  case cache =>
    rw [State.cache_reset]
    by_cases h : c = 0 <;> simp [h]

theorem State.cutWrite_slots (s : State) : s.cutWrite.slots = s.slots := by
  unfold State.cutWrite State.writeArray
  split <;> rfl

theorem State.slot_afterReset (s : State) (id : SlotId) : s.afterReset.slot id = Slot.reset id.index (s.slot id).mark := by
  simp [State.slot, State.afterReset, State.cutWrite_slots]

/-- Settles O4: the undefined bytes stand in the page that was being written, and the marks are read back. -/
theorem resetCutsOnePage : Obligations.ResetCutsOnePage := by
  intro s id page hm hp
  refine ⟨s.afterReset, rfl, rfl, rfl, fun a ha => ?_, fun j => ?_⟩
  · show Memory.read arrayDefault s.cutWrite.array a = _
    rw [State.cutWrite_array_of_some hp]
    refine Memory.read_writeAll_outside _ _ _ _ _ hm ?_
    simpa [cutBytes, Config.pageSize] using ha
  · rw [State.slot_afterReset]
    exact ⟨rfl, rfl⟩

end Sys2Proof.Machine

/-! The end of a block period, the opening of the next, and the program blocks that pace it (R1 to R19). -/

namespace Sys2Proof.Machine

set_option Elab.async false

section
variable {s : State}

/-! ### Frames -/

/-- A refresh of the lines changes nothing else. -/
theorem State.refreshLines_eq (s : State) : s.refreshLines = { s with lines := s.refreshLines.lines } :=
  State.refreshLines_keeps (P := fun t => t = { s with lines := t.lines })
    ⟨fun _ x h => congrArg (fun v : State => { v with lines := x }) h⟩ rfl

theorem State.setProg_eq (s : State) (m : LockMachine) :
    s.setProg m = { s with prog := m, lines := (s.setProg m).lines } := State.refreshLines_eq { s with prog := m }

theorem State.ports_closeIfOpen_openPeriod (s : State) (q : Option Half) (b : Bool) :
    PortsAre s.prog s.sense s.lockInput (s.closeIfOpen.openPeriod q b) :=
  State.openPeriod_keeps (keeps_ports _ _ _) (State.closeIfOpen_keeps (keeps_ports _ _ _) ⟨rfl, rfl, rfl⟩)

theorem State.tracker_closeIfOpen_openPeriod (s : State) (q : Option Half) (b : Bool) (i : Fin 12) :
    ((s.closeIfOpen.openPeriod q b).screen i).tracker = (s.screen i).tracker :=
  State.openPeriod_keeps (keeps_trackers fun j => (s.screen j).tracker)
    (State.closeIfOpen_keeps (keeps_trackers fun j => (s.screen j).tracker) fun _ => rfl) i

/-! ### The free-running period -/

theorem State.closePeriod_ports (s : State) : PortsAre s.prog s.sense s.lockInput s.closePeriod :=
  State.closePeriod_keeps (keeps_ports _ _ _) ⟨rfl, rfl, rfl⟩

theorem State.closePeriod_tracker (s : State) (i : Fin 12) : (s.closePeriod.screen i).tracker = (s.screen i).tracker :=
  State.closePeriod_keeps (keeps_trackers fun j => (s.screen j).tracker) (fun _ => rfl) i

theorem State.openFree_ports (s : State) : PortsAre s.prog s.sense s.lockInput s.openFree :=
  State.absentPeriod_keeps (keeps_ports_tracker _ _ _) (State.openPeriod_keeps (keeps_ports _ _ _) ⟨rfl, rfl, rfl⟩)

theorem State.openFree_tracker (s : State) (i : Fin 12) :
    (s.openFree.screen i).tracker = (s.screen i).tracker.absent := by
  have kept : ((s.openPeriod none false).screen i).tracker = (s.screen i).tracker :=
    State.openPeriod_keeps (keeps_trackers fun j => (s.screen j).tracker) (fun _ => rfl) i
  rw [State.openFree, State.absentPeriod_tracker, kept]

theorem State.ensureOpen_of_open (h : s.periodOpen = true) : s.ensureOpen = s := if_pos h

theorem State.blockPeriod_of_open (h : s.periodOpen = true) (hp : s.prog.state ≠ .locked) :
    s.blockPeriod = s.closePeriod.openFree := by
  have prog : s.closePeriod.prog.state ≠ .locked := by rwa [s.closePeriod_ports.1]
  rw [State.blockPeriod, State.ensureOpen_of_open h]
  exact if_neg prog

/-- Settles O10: the period's own fields by what closing and opening make of them, the ports and trackers by their frames. -/
theorem blockPeriodFree : Obligations.BlockPeriodFree := by
  intro s hopen hp
  refine ⟨s.closePeriod.openFree, congrArg Host.Outcome.next (State.blockPeriod_of_open hopen hp), ?_⟩
  obtain ⟨hw, ha, hn, -, hq, -⟩ := State.closePeriod_clock s
  obtain ⟨ow, oa, on, ol, oq, oo⟩ := State.openFree_clock s.closePeriod
  obtain ⟨pp, ps, pl⟩ := State.closePeriod_ports s
  obtain ⟨qp, qs, ql⟩ := State.openFree_ports s.closePeriod
  rw [hw, ha] at oa
  rw [hw] at ow
  rw [hw, ha, hn] at on
  refine ⟨oo, ol, by rw [oq, hq], qp.trans pp, qs.trans ps, ql.trans pl, fun h => ?_, fun h => ?_, fun i => ?_⟩
  · have h := Nat.not_le.mpr h
    exact ⟨by rw [ow, if_neg h], by rw [on, if_neg h], by rw [oa, if_neg h]⟩
  · exact ⟨by rw [ow, if_pos h], by rw [oa, if_pos h], by rw [on, if_pos h]⟩
  · rw [State.openFree_tracker, State.closePeriod_tracker, Screen.absentUpdate_tracker]

/-! ### A lost block -/

theorem LockMachine.expected_lose (m : LockMachine) : m.lose.expected = m.expected + 1 := by
  show m.lastGood.getD 0 + BitVec.ofNat 16 (m.badRun + 1) + 1 = m.lastGood.getD 0 + BitVec.ofNat 16 m.badRun + 1 + 1
  rw [BitVec.ofNat_add, ← BitVec.add_assoc]
  rfl

/-- The two ways a block is lost in LOCKED. -/
theorem exec_lost {c : Instr} (hl : s.prog.state = .locked)
    (hc : c = .lostBlock ∨ ∃ a l, c = .programBlock a l ∧ (a && programGood l) = false) :
    exec c s = .next s.lostBlock := by
  rcases hc with rfl | ⟨a, l, rfl, bad⟩
  · exact congrArg Host.Outcome.next (if_pos hl)
  · show Host.Outcome.next (s.programBlock a l) = _
    simp only [State.programBlock, hl, bad, Bool.false_eq_true, if_false]

/-- Settles O16: the period before and the one that opens by their frames, then the lock machine's loss. -/
theorem lostBlock : Obligations.LostBlock := by
  intro s c hl hc
  refine ⟨s.lostBlock, exec_lost hl hc, ?_⟩
  have clock := State.reopened_clock s none true
  have ports := State.ports_closeIfOpen_openPeriod s none true
  have trackers := State.tracker_closeIfOpen_openPeriod s none true
  unfold State.lostBlock
  revert clock ports trackers
  generalize s.closeIfOpen.openPeriod none true = u
  intro clock ports trackers
  have clock := State.absentPeriod_keeps (keeps_clock_tracker _ _ _ _ _ _) clock
  have ports := State.absentPeriod_keeps (keeps_ports_tracker _ _ _) ports
  have trackers : ∀ i, (u.absentPeriod.screen i).tracker = (s.screen i).tracker.absent := fun i => by
    rw [State.absentPeriod_tracker, trackers]
  revert clock ports trackers
  generalize u.absentPeriod = v
  intro ⟨cw, ca, cn, _, cq, co⟩ ⟨pp, ps, _⟩ trackers
  have prog : v.laneGap.countBad.prog = s.prog := pp
  rw [State.setProg_eq, prog]
  refine ⟨rfl, rfl, LockMachine.expected_lose _, ?_, fun h => ?_, rfl, rfl, cq, co, ps, ⟨cw, cn, ?_⟩, fun i => ?_⟩
  · show (if 8 ≤ s.prog.badRun + 1 then Lock.seek else s.prog.state) = _
    rw [hl]
  · have lost : s.prog.lose.state = .seek := if_pos h
    simp [lost]
  · exact congrArg (· + 1) ca
  · rw [Screen.absentUpdate_tracker]; exact trackers i

/-! ### A block taken -/

/-- A tracker's update from a block: by its descriptor, absent where it has none (R14, R16, R17). -/
def Screen.followed (x : Screen) (l : List Byte) (i : Fin 12) : Screen :=
  match descriptorOf l i.val with
  | some d => x.describe d
  | none => x.absentUpdate

theorem Screen.followed_tracker_congr {x y : Screen} (h : x.tracker = y.tracker) (l : List Byte) (i : Fin 12) :
    (x.followed l i).tracker = (y.followed l i).tracker := by
  unfold Screen.followed
  cases descriptorOf l i.val with
  | some d => simp only [Screen.describe, h]
  | none => simp only [Screen.absentUpdate_tracker, h]

variable {P : State → Prop} {l : List Byte} {gap : Bool}

/-- What a block hands on, in the changes of trackers, cues and the control lane engine. -/
theorem State.handBlock_keeps_of (h : KeepsLane P) (ht : KeepsTracker P) (hs : P s) : P (s.handBlock l gap) := by
  unfold State.handBlock
  dsimp only
  have handed : P ((s.forScreens fun i t => t.describeScreen l i).forScreens fun i t => t.takeEvent i (s.eventOf l i)) :=
    State.forScreens_keeps (fun _ _ hu => State.takeEvent_keeps h.toKeepsCues hu)
      (State.forScreens_keeps (fun _ _ hu => State.describeScreen_keeps ht hu) hs)
  split
  · exact State.laneBytes_keeps h _ _ _ _ (State.laneGap_keeps h handed)
  · exact State.laneBytes_keeps h _ _ _ _ handed

/-- Position events and lane bytes leave a view of the screens that trackers and handings alone decide. -/
theorem State.handBlock_view {α : Type} (v : Screen → α)
    (hv : ∀ x y : Screen, y.tracker = x.tracker → y.sent = x.sent → v y = v x) (i : Fin 12) :
    v ((s.handBlock l gap).screen i) = v ((s.forScreens fun i t => t.describeScreen l i).screen i) := by
  unfold State.handBlock
  dsimp only
  generalize (s.forScreens fun i t => t.describeScreen l i) = u
  have kept := keeps_view v hv fun j => v (u.screen j)
  have events := State.forScreens_keeps (P := fun t => ∀ j, v (t.screen j) = v (u.screen j)) (s := u)
    (f := fun i t => t.takeEvent i (s.eventOf l i))
    (fun i _ hu => State.takeEvent_keeps (i := i) kept.toKeepsCues hu) fun _ => rfl
  split
  · exact State.laneBytes_keeps kept.toKeepsLane _ _ _ _ (State.laneGap_keeps kept.toKeepsLane events) i
  · exact State.laneBytes_keeps kept.toKeepsLane _ _ _ _ events i

/-- A block taken updates every tracker, and hands on its code, its mask and the samples that the block has for it (R16,
R18). -/
theorem State.handBlock_screen {x : Screen} {i : Fin 12} (hx : (s.screen i).tracker = x.tracker) :
    ((s.handBlock l gap).screen i).tracker = (x.followed l i).tracker ∧
      ((s.handBlock l gap).screen i).handed.code = (x.followed l i).tracker.code ∧
      ((s.handBlock l gap).screen i).handed.mask = (x.followed l i).tracker.mask ∧
      ((s.handBlock l gap).screen i).handed.tracks =
        if (descriptorOf l i.val).isSome then tracksOf l i.val else zeroTracks := by
  have tracker : ((s.forScreens fun i t => t.describeScreen l i).screen i).tracker = (x.followed l i).tracker := by
    rw [State.describe_tracker, ← Screen.followed_tracker_congr hx, Screen.followed]
    cases descriptorOf l i.val <;> rfl
  have sent : ((s.handBlock l gap).screen i).sent = _ :=
    (State.handBlock_view Screen.sent (fun _ _ _ h => h) i).trans (State.describe_sent s l i)
  rw [tracker] at sent
  exact ⟨(State.handBlock_view Screen.tracker (fun _ _ h _ => h) i).trans tracker, congrArg (·.1) sent,
    congrArg (·.2.1) sent, congrArg (·.2.2) sent⟩

/-- The position event of a screen, from the tracker as it stood before the block (R19). -/
def Tracker.eventFor (t : Tracker) (d : Descriptor) : PositionEvent :=
  ⟨d.pos, t.lastPos, d.rate, decide (t.rate ≠ some d.rate), t.dropouts⟩

/-- The position events that a block gives, taken in screen order (R19). -/
theorem State.handBlock_events {u : State} {f : Fin 12 → Tracker}
    (hu : u = s.forScreens fun i t => t.describeScreen l i) (hf : ∀ i, (s.screen i).tracker = f i) :
    s.handBlock l gap =
      let events := (List.finRange 12).foldl (fun (v : State) i =>
        match descriptorOf l i.val with
        | some d => if d.play = .playing ∧ u.device = .running then v.takePosition i ((f i).eventFor d) else v
        | none => v) u
      (if gap then events.laneGap else events).laneBytes (byteAt l 7).toNat 0 (laneOf l) := by
  have kept : KeepsTracker fun t => t.device = s.device := ⟨⟨fun _ _ _ _ h => h⟩, fun _ _ _ _ h => h⟩
  have device : u.device = s.device := by
    rw [hu]
    exact State.forScreens_keeps (P := fun t => t.device = s.device)
      (fun _ _ h => State.describeScreen_keeps kept h) rfl
  have step : (fun (v : State) i => v.takeEvent i (s.eventOf l i)) = fun (v : State) i =>
      match descriptorOf l i.val with
      | some d => if d.play = .playing ∧ u.device = .running then v.takePosition i ((f i).eventFor d) else v
      | none => v := by
    funext v i
    unfold State.eventOf
    cases descriptorOf l i.val with
    | none => rfl
    | some d =>
      dsimp only
      rw [device, ← hf i]
      split <;> rfl
  rw [← step, hu]
  rfl

/-! ### The two blocks that are taken -/

theorem LockMachine.confirmed_of_goal {m : LockMachine} {q : Half} (hq : q = m.confirmSeq + 1) (hc : 3 ≤ m.confirmCount + 1) :
    m.confirmed q =
      { m with confirmCount := m.confirmCount + 1, confirmSeq := q, lastGood := some q, badRun := 0, state := .locked } := by
  simp only [LockMachine.confirmed, LockMachine.nextCount, if_pos hq]
  exact if_pos hc

/-- Settles O14: the period before and the one that opens by their frames, then what the block hands on. -/
theorem lockCompletes : Obligations.LockCompletes := by
  intro s l hs good hq hc
  have goal : s.programBlock true l = s.lockComplete l := by
    simp only [State.programBlock, hs, good, LockMachine.nextCount, if_pos hq]
    exact if_pos hc
  refine ⟨s.lockComplete l, congrArg Host.Outcome.next goal, ?_⟩
  have clock := State.reopened_clock s (some (seqOf l)) true
  have ports := State.ports_closeIfOpen_openPeriod s (some (seqOf l)) true
  have trackers := State.tracker_closeIfOpen_openPeriod s (some (seqOf l)) true
  unfold State.lockComplete
  revert clock ports trackers
  generalize s.closeIfOpen.openPeriod (some (seqOf l)) true = u
  intro clock ports trackers
  have prog : u.prog.confirmed (seqOf l) = { s.prog with
      confirmCount := s.prog.confirmCount + 1, confirmSeq := seqOf l, lastGood := some (seqOf l), badRun := 0
      state := .locked } := by
    rw [ports.1]; exact LockMachine.confirmed_of_goal hq hc
  have kept : ∀ {P : State → Prop}, KeepsLane P → KeepsTracker P → P { u with prog := u.prog.confirmed (seqOf l) } →
      P ((u.setProg (u.prog.confirmed (seqOf l))).handBlock l false) := fun h ht hu =>
    State.handBlock_keeps_of h ht (State.refreshLines_keeps h.toKeepsLines hu)
  obtain ⟨pp, ps, pl⟩ := kept (keeps_ports _ _ _).toKeepsLane (keeps_ports_tracker _ _ _) ⟨prog, ports.2⟩
  obtain ⟨cw, ca, cn, cl, cq, co⟩ := kept (keeps_clock _ _ _ _ _ _) (keeps_clock_tracker _ _ _ _ _ _) clock
  have before : ∀ i, ((u.setProg (u.prog.confirmed (seqOf l))).screen i).tracker = (s.screen i).tracker := fun i => by
    rw [State.setProg_eq]; exact trackers i
  dsimp only
  refine ⟨by rw [pp], by rw [pp], by rw [pp], cq, co, cl, ps, pl, ⟨cw, cn, ca⟩, fun i => State.handBlock_screen (before i), ?_⟩
  exact State.handBlock_events (u := (u.setProg (u.prog.confirmed (seqOf l))).forScreens fun i t => t.describeScreen l i)
    (f := fun i => (s.screen i).tracker) rfl before

/-- A block taken in LOCKED: a bad period and a gap where it is not the expected one (R6, R7). -/
theorem State.takeLocked_eq (s : State) (l : List Byte) : s.takeLocked l =
    let u := s.closeIfOpen.openPeriod (some (seqOf l)) true
    State.handBlock { u with
      prog := u.prog.taken (seqOf l)
      integrityAcc := u.integrityAcc + if seqOf l = s.prog.expected then 0 else 1 } l
      (decide (seqOf l ≠ s.prog.expected)) := by
  unfold State.takeLocked State.countBad
  by_cases h : seqOf l = s.prog.expected <;> simp [h]

/-- Settles O15: as for the block that completes the lock, with a gap and a bad period where the block is not the expected
one. -/
theorem lockedTakesBlock : Obligations.LockedTakesBlock := by
  intro s l hs good
  have goal : s.programBlock true l = s.takeLocked l := by
    simp only [State.programBlock, hs, good, Bool.and_self, if_true]
  refine ⟨s.takeLocked l, congrArg Host.Outcome.next goal, ?_⟩
  have clock := State.reopened_clock s (some (seqOf l)) true
  have ports := State.ports_closeIfOpen_openPeriod s (some (seqOf l)) true
  have trackers := State.tracker_closeIfOpen_openPeriod s (some (seqOf l)) true
  rw [State.takeLocked_eq]
  dsimp only
  revert clock ports trackers
  generalize s.closeIfOpen.openPeriod (some (seqOf l)) true = u
  intro ⟨cw, ca, cn, cl, cq, co⟩ ports trackers
  have prog : u.prog.taken (seqOf l) = { s.prog with lastGood := some (seqOf l), badRun := 0 } := by rw [ports.1]; rfl
  generalize hv : ({ u with
    prog := u.prog.taken (seqOf l)
    integrityAcc := u.integrityAcc + if seqOf l = s.prog.expected then 0 else 1 } : State) = v
  have before : ∀ i, (v.screen i).tracker = (s.screen i).tracker := by subst hv; exact trackers
  obtain ⟨pp, ps, -⟩ := State.handBlock_keeps_of (l := l) (gap := decide (seqOf l ≠ s.prog.expected))
    (keeps_ports _ _ _).toKeepsLane (keeps_ports_tracker _ _ _) (s := v) (by subst hv; exact ⟨prog, ports.2⟩)
  obtain ⟨cw, ca, cn, cl, cq, co⟩ := State.handBlock_keeps_of (l := l) (gap := decide (seqOf l ≠ s.prog.expected))
    (keeps_clock _ _ _ _ _ _) (keeps_clock_tracker _ _ _ _ _ _) (s := v)
    (by subst hv; exact ⟨cw, congrArg (· + _) ca, cn, cl, cq, co⟩)
  refine ⟨pp, by rw [pp]; exact congrArg (· + 1) (BitVec.add_zero _), cq, co, cl, ps, ⟨cw, cn, ca⟩,
    fun i => State.handBlock_screen (before i), ?_⟩
  rw [State.handBlock_events rfl before]
  subst hv
  by_cases h : seqOf l = s.prog.expected
  · simp only [h, ne_eq, not_true_eq_false, decide_false, Bool.false_eq_true, if_false, if_true]
    rfl
  · simp only [h, ne_eq, not_false_eq_true, decide_true, if_false, if_true]
    rfl
end
end Sys2Proof.Machine

/-! The checks of the trunk blocks sent (R184, R185), the search for the lock (R4, R5, R12), the integrity window and the
dropout limit (R10, R17). -/

namespace Sys2Proof.Machine

set_option Elab.async false

section
variable {s : State} {l : List Byte}

/-! ### The check of a block sent -/

/-- A block in the form of R185 passes the receiver's check over its whole length. -/
theorem checkOk_trunkBlock {sync : List Byte} (covered : List Byte) (hs : sync.length = 4) :
    checkOk (trunkBlock sync covered) (trunkBlock sync covered).length = true := by
  have length : (trunkBlock sync covered).length - 2 = (sync ++ covered).length := by
    rw [trunkBlock, List.length_append, length_crcBytes, Nat.add_sub_cancel]
  refine decide_eq_true ?_
  rw [length, trunkBlock, List.take_left' rfl, List.drop_left' hs, fieldAt_crcBytes]

/-- The two blocks placed on the trunk. -/
def BlocksAre (f r : List Byte) (t : State) : Prop := t.feedOut = f ∧ t.returnOut = r

theorem keeps_blocks (f r : List Byte) : KeepsLane (BlocksAre f r) := by
  refine' {
    source := fun s id x _ hs => by cases id <;> exact hs
    defer := fun s id n _ hs => by cases id <;> exact hs
    .. }
  all_goals intros; assumption

theorem keeps_blocks_tracker (f r : List Byte) : KeepsTracker (BlocksAre f r) := ⟨⟨fun _ _ _ _ h => h⟩, fun _ _ _ _ h => h⟩

/-- The opening of a period, in the changes of the control lane engine, the integrity window and the period's own fields. -/
theorem State.openPeriod_keeps_of {P : State → Prop} {q : Option Half} {b : Bool} (h : KeepsLane P)
    (window : ∀ u, P u → P u.endWindow) (enter : ∀ u, P u → P (u.enterPeriod q b)) (hs : P s) : P (s.openPeriod q b) := by
  have settled : P s.settle := by
    unfold State.settle
    dsimp only
    refine State.takeHoldBuffer_keeps h (State.overdueUnit_keeps h.toKeepsStore
      (State.forScreens_keeps (fun _ _ hu => State.takeMuteZero_keeps h.toKeepsAlarms hu) ?_))
    split
    · exact window s hs
    · exact hs
  unfold State.openPeriod
  exact State.forLines_keeps (fun _ _ hu => State.lineBoundary_keeps h.toKeepsLines hu)
    (State.ageUnit_keeps h.toKeepsGrant (State.forScreens_keeps
      (fun _ _ hu => State.screenBoundary_keeps h.toKeepsGrant hu) (enter _ settled)))

theorem State.openFree_blocks (s : State) : BlocksAre s.feedOut s.returnOut s.openFree :=
  State.absentPeriod_keeps (keeps_blocks_tracker _ _)
    (State.openPeriod_keeps_of (keeps_blocks _ _) (fun _ h => h) (fun _ h => h) ⟨rfl, rfl⟩)

/-- The check value of the CRC-16 (R184). -/
theorem crc16_checkValue : crc16 [0x31, 0x32, 0x33, 0x34, 0x35, 0x36, 0x37, 0x38, 0x39] = 0x29B1#16 := by
  simp [crc16, crcByte, crcBit, BitVec.msb_eq_decide]

/-- Settles O12: the blocks are formed by `trunkBlock` as the period ends, and the opening of the next leaves them. -/
theorem trunkBlocksCheck : Obligations.TrunkBlocksCheck := by
  refine ⟨crc16_checkValue, fun s => ⟨s.blockPeriod, rfl, ?_⟩⟩
  have sent : ∃ f r, BlocksAre (trunkBlock [0xC3, 0x3C, 0xA5, 0x5A] f) (trunkBlock [0x96, 0x69, 0x3A, 0xC5] r)
      s.ensureOpen.closePeriod := ⟨_, _, rfl, rfl⟩
  obtain ⟨f, r, feed, ret⟩ := sent
  have kept : BlocksAre s.ensureOpen.closePeriod.feedOut s.ensureOpen.closePeriod.returnOut s.blockPeriod := by
    unfold State.blockPeriod
    dsimp only
    split
    · exact ⟨rfl, rfl⟩
    · exact State.openFree_blocks _
  rw [kept.1, kept.2, feed, ret]
  exact ⟨checkOk_trunkBlock f rfl, checkOk_trunkBlock r rfl⟩

/-! ### The search for the lock -/

theorem searchBits_program (h : programGood l = true) : searchBits programSync readProgram (bitsOf l) = some (seqOf l) := by
  have sync : programSync ++ l.drop 4 = l := by
    unfold programGood at h
    rw [Bool.and_eq_true, decide_eq_true_eq] at h
    rw [← h.1.1, List.take_append_drop]
  rw [← sync]
  exact searchBits_front _ _ _ _ (by rw [sync]; exact readProgram_good l h) (by decide)

theorem searchBits_sense (h : senseGood l = true) : searchBits senseSync readSense (bitsOf l) = some (seqOf l) := by
  have good := h
  unfold senseGood at good
  rw [Bool.and_eq_true, decide_eq_true_eq] at good
  obtain ⟨⟨front, length⟩, -⟩ := good
  have sync : senseSync ++ l.drop 4 = l := by rw [← front, List.take_append_drop]
  have bytes : bytesOf 584 (bitsOf l) = l := by
    have := bytesOf_bitsOf l []
    rwa [List.append_nil, length] at this
  have read : readSense (bitsOf l) = some (seqOf l) := by
    unfold readSense
    rw [bytes]
    exact if_pos h
  rw [← sync]
  exact searchBits_front _ _ _ _ (by rw [sync]; exact read) (by decide)

variable {m : LockMachine} {q : Half}

theorem LockMachine.confirmed_of_ne (hq : q ≠ m.confirmSeq + 1) :
    m.confirmed q = { m with confirmCount := 1, confirmSeq := q } := by
  simp only [LockMachine.confirmed, LockMachine.nextCount, if_neg hq]
  exact if_neg (by decide)

theorem LockMachine.confirmed_of_lt (hq : q = m.confirmSeq + 1) (hc : m.confirmCount + 1 < 3) :
    m.confirmed q = { m with confirmCount := m.confirmCount + 1, confirmSeq := q } := by
  simp only [LockMachine.confirmed, LockMachine.nextCount, if_pos hq]
  exact if_neg (Nat.not_le.mpr hc)

/-! ### PROGRAM IN and SENSE IN outside LOCKED -/

theorem State.programBlock_of_seek (hs : s.prog.state = .seek) {atDue : Bool} :
    s.programBlock atDue l =
      if s.lastLocked then s else { s with prog := s.prog.seek (searchBits programSync readProgram (bitsOf l)) } := by
  simp only [State.programBlock, hs]

/-- A good block in CONFIRM that does not complete the lock. -/
theorem State.programBlock_of_counted (hs : s.prog.state = .confirm) (good : programGood l = true)
    (hc : s.prog.nextCount (seqOf l) < 3) :
    s.programBlock true l = { s with prog := s.prog.confirmed (seqOf l) } := by
  simp only [State.programBlock, hs, good, Bool.and_self, if_true]
  exact if_neg (Nat.not_le.mpr hc)

theorem State.programBlock_of_bad (hs : s.prog.state = .confirm) {atDue : Bool} (bad : (atDue && programGood l) = false) :
    s.programBlock atDue l =
      { s with prog := s.prog.missed.seek (searchBits programSync readProgram (afterDue atDue l)) } := by
  simp only [State.programBlock, hs, bad, Bool.false_eq_true, if_false]

theorem State.senseBlock_of_seek (hs : s.sense.state = .seek) {atDue : Bool} :
    s.senseBlock atDue l = { s with sense := s.sense.seek (searchBits senseSync readSense (bitsOf l)) } := by
  simp only [State.senseBlock, hs]

/-- A good sense block in CONFIRM that does not complete the lock. -/
theorem State.senseBlock_of_counted (hs : s.sense.state = .confirm) (good : senseGood l = true)
    (open_ : (s.sense.confirmed (seqOf l)).state ≠ .locked) :
    s.senseBlock true l = { s with sense := s.sense.confirmed (seqOf l) } := by
  simp only [State.senseBlock, hs, good, Bool.and_self, if_true, if_neg open_]

theorem State.senseBlock_of_bad (hs : s.sense.state = .confirm) {atDue : Bool} (bad : (atDue && senseGood l) = false) :
    s.senseBlock atDue l =
      { s with sense := s.sense.missed.seek (searchBits senseSync readSense (afterDue atDue l)) } := by
  simp only [State.senseBlock, hs, bad, Bool.false_eq_true, if_false]

theorem LockMachine.dueMissed_of_confirm (hm : m.state = .confirm) : m.dueMissed = { m with state := .seek, confirmCount := 0 } :=
  if_pos hm

/-- Settles O13, port by port and block by block. -/
theorem seekAndConfirm : Obligations.SeekAndConfirm := by
  intro s
  refine ⟨fun hs atDue l => ⟨fun last => ?_, fun last good => ?_⟩, fun hs => ⟨fun l good hq => ?_, fun l good hq hc => ?_,
    fun atDue l bad => ⟨fun found => ?_, fun q found => ?_⟩, ?_⟩, fun hs atDue l good => ?_,
    fun hs => ⟨fun l good hq => ?_, fun l good hq hc => ?_, fun atDue l bad => ⟨fun found => ?_, fun q found => ?_⟩, ?_⟩⟩
  · show Host.Outcome.next (s.programBlock atDue l) = _
    rw [State.programBlock_of_seek hs, if_pos last]
  · show Host.Outcome.next (s.programBlock atDue l) = _
    rw [State.programBlock_of_seek hs, last, searchBits_program good]
    rfl
  · show Host.Outcome.next (s.programBlock true l) = _
    have count : s.prog.nextCount (seqOf l) = 1 := if_neg hq
    rw [State.programBlock_of_counted hs good (by omega), LockMachine.confirmed_of_ne hq]
  · show Host.Outcome.next (s.programBlock true l) = _
    have count : s.prog.nextCount (seqOf l) = s.prog.confirmCount + 1 := if_pos hq
    rw [State.programBlock_of_counted hs good (by omega), LockMachine.confirmed_of_lt hq hc]
  · show Host.Outcome.next (s.programBlock atDue l) = _
    rw [State.programBlock_of_bad hs bad, afterDue, found]
    rfl
  · show Host.Outcome.next (s.programBlock atDue l) = _
    rw [State.programBlock_of_bad hs bad, afterDue, found]
    rfl
  · show Host.Outcome.next { s with prog := s.prog.dueMissed } = _
    rw [LockMachine.dueMissed_of_confirm hs]
  · show Host.Outcome.next (s.senseBlock atDue l) = _
    rw [State.senseBlock_of_seek hs, searchBits_sense good]
    rfl
  · show Host.Outcome.next (s.senseBlock true l) = _
    have next := LockMachine.confirmed_of_ne hq
    rw [State.senseBlock_of_counted hs good (by rw [next]; simp [hs]), next]
  · show Host.Outcome.next (s.senseBlock true l) = _
    have next := LockMachine.confirmed_of_lt hq hc
    rw [State.senseBlock_of_counted hs good (by rw [next]; simp [hs]), next]
  · show Host.Outcome.next (s.senseBlock atDue l) = _
    rw [State.senseBlock_of_bad hs bad, afterDue, found]
    rfl
  · show Host.Outcome.next (s.senseBlock atDue l) = _
    rw [State.senseBlock_of_bad hs bad, afterDue, found]
    rfl
  · show Host.Outcome.next { s with sense := s.sense.dueMissed } = _
    rw [LockMachine.dueMissed_of_confirm hs]

/-! ### The integrity window and the dropout limit -/

theorem State.onScreen_setScreen (s : State) (i : Fin 12) (x : Screen) (f : Screen → Screen) :
    (s.setScreen i x).onScreen i f = s.setScreen i (f x) := by
  simp [State.onScreen]

/-- A tracker update replaces its screen by the one that hands over, but for the feeds, which a rebuild may change. -/
theorem State.trackScreen_eq (s : State) (i : Fin 12) (f : Screen → Screen) (tracks : List (List Int)) :
    ∃ feeds, s.trackScreen i f tracks = s.setScreen i { (f (s.screen i)).handOver tracks with feeds := feeds } := by
  unfold State.trackScreen
  dsimp only
  split
  · exact ⟨_, rfl⟩
  · rw [State.rebuild, State.onScreen_setScreen]
    exact ⟨_, rfl⟩

/-- Settles O18: the window's fields, and the screen that its 1200th dropout period makes ABSENT. -/
theorem windowAndDropout : Obligations.WindowAndDropout := by
  refine ⟨fun s h => congrArg Host.Outcome.next (if_pos (decide_eq_true h)), fun s i hd hn => ?_⟩
  have due : (s.screen i).dropoutDue = true := decide_eq_true ⟨hd, by rw [hn]; decide⟩
  have limit : (s.screen i).absentUpdate =
      { s.screen i with tracker := (s.screen i).tracker.toAbsent, tracking := false } := by
    simp only [Screen.absentUpdate, hd, hn]
    exact if_pos (by decide)
  obtain ⟨feeds, eq⟩ := s.trackScreen_eq i Screen.absentUpdate zeroTracks
  refine ⟨s.absentScreen i, congrArg Host.Outcome.next (if_pos due), ?_⟩
  rw [State.absentScreen, eq, limit, State.screen_setScreen_same]
  exact ⟨rfl, rfl, rfl, rfl, rfl, fun j hj => State.screen_setScreen_other s i j _ hj, rfl⟩

end
end Sys2Proof.Machine

/-! What a report and an evaluation step of an alarm source leave (R97 to R99, R111, R116, R125 to R127): the source's own
record, its screen's protect records and folds, and the alarm list. -/

namespace Sys2Proof.Machine

set_option Elab.async false

section
variable {s t : State} {id : SourceId} {i j : Fin 12} {k q : Fin 16}

/-! ### Updates of one screen and one feed -/

theorem State.setScreen_self (s : State) (i : Fin 12) : s.setScreen i (s.screen i) = s := by
  simp [State.setScreen, State.screen]

theorem Screen.setFeed_self (x : Screen) (k : Fin 16) : x.setFeed k (x.feed k) = x := by
  simp [Screen.setFeed, Screen.feed]

theorem Screen.setFeed_setFeed (x : Screen) (k : Fin 16) (f g : Feed) : (x.setFeed k f).setFeed k g = x.setFeed k g := by
  simp [Screen.setFeed]

theorem State.onFeed_onFeed (s : State) (i : Fin 12) (k : Fin 16) (f g : Feed → Feed) :
    (s.onFeed i k f).onFeed i k g = s.onFeed i k fun y => g (f y) := by
  simp [State.onFeed, State.onScreen, Screen.setFeed_setFeed]

theorem State.onFeed_eq_self {f : Feed → Feed} (h : f (s.feed i k) = s.feed i k) : s.onFeed i k f = s := by
  show s.setScreen i ((s.screen i).setFeed k (f (s.feed i k))) = s
  rw [h, State.feed, Screen.setFeed_self, State.setScreen_self]

theorem State.feed_onFeed (s : State) (i j : Fin 12) (k q : Fin 16) (g : Feed → Feed) :
    (s.onFeed i k g).feed j q = if j = i ∧ q = k then g (s.feed j q) else s.feed j q := by
  split
  case isTrue same => obtain ⟨rfl, rfl⟩ := same; exact State.feed_onFeed_same ..
  case isFalse other => exact State.feed_onFeed_other (h := other) ..

theorem State.feed_onScreen (s : State) (i j : Fin 12) (q : Fin 16) (f : Screen → Screen) :
    (s.onScreen i f).feed j q = if j = i then (f (s.screen j)).feed q else s.feed j q := by
  unfold State.feed
  split
  case isTrue same => subst same; rw [State.screen_onScreen_same]
  case isFalse other => rw [State.screen_onScreen_other (h := other)]

theorem State.screen_onScreen (s : State) (i j : Fin 12) (f : Screen → Screen) :
    (s.onScreen i f).screen j = if j = i then f (s.screen j) else s.screen j := by
  split
  case isTrue same => subst same; exact State.screen_onScreen_same ..
  case isFalse other => exact State.screen_onScreen_other (h := other) ..

/-! ### The rebuild of a screen's matrix -/

/-- A rebuild leaves of its screen all but the rows and fold states. -/
theorem State.feed_rebuild (s : State) (i j : Fin 12) (q : Fin 16) :
    (s.rebuild i).feed j q = if j = i then
      { s.feed j q with
        row := effectiveRow (s.formatFor (s.screen i).effectiveCode) (s.screen i).out q
        fold := foldStateOf (s.formatFor (s.screen i).effectiveCode) (s.screen i).out q }
    else s.feed j q := by
  rw [State.rebuild, State.feed_onScreen]
  split
  case isTrue same => subst same; exact Screen.feed_mapFeeds ..
  case isFalse => rfl

theorem State.screen_rebuild (s : State) (i j : Fin 12) :
    (s.rebuild i).screen j = { s.screen j with feeds := ((s.rebuild i).screen j).feeds } := by
  rw [State.rebuild, State.screen_onScreen]
  split <;> rfl

theorem State.out_rebuild (s : State) (i j : Fin 12) : ((s.rebuild i).screen j).out = (s.screen j).out := by
  funext q
  have folded : ((s.rebuild i).feed j q).folded = (s.feed j q).folded := by rw [State.feed_rebuild]; split <;> rfl
  have live : ((s.rebuild i).screen j).live = (s.screen j).live := by rw [State.screen_rebuild]
  unfold State.feed at folded
  rw [Screen.out, Screen.out, live, folded]

/-- After a rebuild every row and fold state is the one that the out set then gives (R34 to R37). -/
theorem State.rebuild_rows (s : State) (i : Fin 12) (q : Fin 16) :
    ((s.rebuild i).feed i q).row = effectiveRow (s.formatFor (s.screen i).effectiveCode) ((s.rebuild i).screen i).out q ∧
      ((s.rebuild i).feed i q).fold = foldStateOf (s.formatFor (s.screen i).effectiveCode) ((s.rebuild i).screen i).out q := by
  rw [State.out_rebuild, State.feed_rebuild, if_pos rfl]
  exact ⟨rfl, rfl⟩

/-! ### One source's record -/

/-- A source's record without its deferral. -/
def Source.core (x : Source) : Source := { x with unreported := false, unreportedCount := 0 }

/-- Two records with one core have the state, the count and the latched flag in common. -/
theorem Source.core_fields {x y : Source} (h : x.core = y.core) :
    x.state = y.state ∧ x.count = y.count ∧ x.latched = y.latched :=
  ⟨congrArg (·.state) h, congrArg (·.count) h, congrArg (·.latched) h⟩

/-- An evaluation step does not read the deferral. -/
theorem Source.evaluate_core (x : Source) (h r : Nat) (raw : Option Bool) :
    x.core.evaluate h r raw = ((x.evaluate h r raw).1.core, (x.evaluate h r raw).2) := by
  obtain ⟨state, count, latched, unreported, unreportedCount⟩ := x
  rcases raw with _ | _ | _
  · rfl
  all_goals
    cases state <;> simp only [Source.evaluate, Source.core] <;> split <;> simp [*]

/-- An evaluation step leaves the deferral. -/
theorem Source.evaluate_unreported (x : Source) (h r : Nat) (raw : Option Bool) :
    (x.evaluate h r raw).1.unreported = x.unreported ∧ (x.evaluate h r raw).1.unreportedCount = x.unreportedCount := by
  obtain ⟨state, count, latched, unreported, unreportedCount⟩ := x
  rcases raw with _ | _ | _
  · exact ⟨rfl, rfl⟩
  all_goals
    cases state <;> dsimp only [Source.evaluate] <;> (try split) <;> exact ⟨rfl, rfl⟩

theorem State.setSource_self (s : State) (id : SourceId) : s.setSource id (s.source id) = s := by
  cases id with
  | trunk | senselink => rfl
  | track i | dropout i | preset i | cue i => exact State.setScreen_self s i
  | overload i k => exact State.onFeed_eq_self (f := fun y => { y with overload := (s.feed i k).overload }) rfl
  | silent i k => exact State.onFeed_eq_self (f := fun y => { y with silent := (s.feed i k).silent }) rfl
  | mismatch i k => exact State.onFeed_eq_self (f := fun y => { y with mismatch := (s.feed i k).mismatch }) rfl

theorem State.setSource_setSource (s : State) (id : SourceId) (x y : Source) :
    (s.setSource id x).setSource id y = s.setSource id y := by
  cases id with
  | trunk | senselink => rfl
  | track i | dropout i | preset i | cue i =>
    simp only [State.setSource, State.onScreen, State.screen_setScreen_same, State.setScreen_setScreen]
  | overload i k | silent i k | mismatch i k => simp only [State.setSource, State.onFeed_onFeed]

/-- The state with the alarm list replaced. -/
def State.withAlarms (s : State) (l : List AlarmRecord) : State := { s with alarms := l }

theorem State.withAlarms_self (s : State) : s.withAlarms s.alarms = s := rfl

theorem State.setSource_withAlarms (s : State) (id : SourceId) (x : Source) (l : List AlarmRecord) :
    (s.withAlarms l).setSource id x = (s.setSource id x).withAlarms l := by
  cases id <;> rfl

theorem State.source_withAlarms (s : State) (l : List AlarmRecord) (id : SourceId) :
    (s.withAlarms l).source id = s.source id := State.source_alarms s l id

@[simp] theorem State.screen_withAlarms (s : State) (l : List AlarmRecord) (j : Fin 12) :
    (s.withAlarms l).screen j = s.screen j := rfl

@[simp] theorem State.feed_withAlarms (s : State) (l : List AlarmRecord) (j : Fin 12) (p : Fin 16) :
    (s.withAlarms l).feed j p = s.feed j p := rfl

theorem State.source_setSource_other {id2 : SourceId} {x : Source} (h : id2 ≠ id) :
    (s.setSource id x).source id2 = s.source id2 := by rw [State.source_setSource, if_neg h]

theorem State.feedSet_setSource (s : State) (id : SourceId) (x : Source) (i : Fin 12) (k : Fin 16) :
    (s.setSource id x).feedSet i k = s.feedSet i k := by
  have frame : FeedsFrame none s (s.setSource id x) := State.setSource_feedsFrame s id x
  rw [State.feedSet, (frame.1.screens i).live]
  rfl

theorem State.notifies_setSource (s : State) (id id2 : SourceId) (x : Source) :
    (s.setSource id x).notifies id2 = s.notifies id2 := by
  cases id2 <;> simp only [State.notifies, State.feedSet_setSource]

theorem State.reportValue_setSource (s : State) (id id2 : SourceId) (x : Source) :
    (s.setSource id x).reportValue id2 = s.reportValue id2 := by
  have frame : FeedsFrame none s (s.setSource id x) := State.setSource_feedsFrame s id x
  cases id2 <;> simp only [State.reportValue, (frame.2 _ _).1.meter]

/-! ### Reports -/

/-- A report changes the alarm list and the source's deferral alone (R125 to R127). -/
theorem State.report_eq (s : State) (id : SourceId) (up : Bool) (q : Half) :
    ∃ x l, s.report id up q = (s.setSource id x).withAlarms l ∧ x.core = (s.source id).core := by
  have same : ∀ l, s.withAlarms l = (s.setSource id (s.source id)).withAlarms l := fun l => by
    rw [State.setSource_self]
  unfold State.report State.takeReport
  split
  · split
    · exact ⟨_, _, same _, rfl⟩
    · split
      · exact ⟨_, _, same _, rfl⟩
      · exact ⟨_, s.alarms, (State.setSource_withAlarms s id _ s.alarms), rfl⟩
  · exact ⟨_, s.alarms, same s.alarms, rfl⟩

theorem State.reported_congr {u : State} {up : Bool} {q : Half} (ha : u.alarms = t.alarms) (hs : u.source id = t.source id)
    (h : s.reported t id up q) : s.reported u id up q := by
  unfold State.reported at *
  rw [ha, hs]
  exact h

/-- A report is taken as R98 and R125 to R127 say. -/
theorem State.reported_report (s : State) (id : SourceId) (up : Bool) (q : Half) :
    s.reported (s.report id up q) id up q := by
  unfold State.reported State.report
  cases hn : s.notifies id with
  | false => exact ⟨rfl, rfl, rfl⟩
  | true =>
    simp only [Bool.true_eq_false, if_false, if_true]
    cases hq : s.queued id with
    | true =>
      rw [State.takeReport_of_queued hq]
      exact ⟨rfl, by rw [State.source_alarms], by rw [State.source_alarms]⟩
    | false =>
      simp only [Bool.false_eq_true, if_false]
      split
      case isTrue room =>
        rw [State.takeReport_of_room hq room.1 room.2]
        exact ⟨rfl, by rw [State.source_alarms], by rw [State.source_alarms]⟩
      case isFalse full =>
        have deferred : (s.source id).unreported = true ∨ 64 ≤ s.alarms.length := by
          cases hu : (s.source id).unreported
          · exact .inr (Nat.not_lt.mp fun room => full ⟨hu, room⟩)
          · exact .inl rfl
        rw [State.takeReport_of_deferred hq deferred, State.source_setSource_same]
        exact ⟨State.setSource_alarms .., rfl, rfl⟩

/-- A report reads of its source the deferral alone. -/
theorem State.reported_of_setSource {x : Source} {up : Bool} {q : Half} (h : (s.setSource id x).reported t id up q)
    (hu : x.unreported = (s.source id).unreported) (hc : x.unreportedCount = (s.source id).unreportedCount) :
    s.reported t id up q := by
  have queued : (s.setSource id x).queued id = s.queued id := by simp only [State.queued, State.setSource_alarms]
  unfold State.reported at *
  rw [State.notifies_setSource, queued, State.reportValue_setSource, State.setSource_alarms, State.source_setSource_same,
    hu, hc] at h
  exact h

/-! ### Evaluation steps -/

/-- A source's record replaced, and the protective action of a step that left it in a state with a transition. -/
def State.acted (s : State) (id : SourceId) (x : Source) (st : SourceState) (moved : Option Bool) : State :=
  (s.setSource id x).protectiveAction id st moved

theorem State.protectiveAction_withAlarms (s : State) (id : SourceId) (st : SourceState) (moved : Option Bool)
    (l : List AlarmRecord) :
    (s.withAlarms l).protectiveAction id st moved = (s.protectiveAction id st moved).withAlarms l := by
  unfold State.protectiveAction
  cases id with
  | overload i k =>
    dsimp only
    rw [show (s.withAlarms l).feedSet i k = s.feedSet i k from rfl]
    split <;> rfl
  | mismatch i k =>
    dsimp only
    rw [show (s.withAlarms l).feedSet i k = s.feedSet i k from rfl]
    split <;> rfl
  | _ => rfl

/-- A step is the record that its evaluation leaves, but for a deferral, its protective action, and the alarm list; a
transition is reported (R97, R98). -/
theorem State.stepSource_eq (s : State) (id : SourceId) (raw : Option Bool) (q : Half) :
    ∃ x l, s.stepSource id raw q =
        (s.acted id x ((s.source id).evaluate (s.holdOf id) (s.releaseOf id) raw).1.state
          ((s.source id).evaluate (s.holdOf id) (s.releaseOf id) raw).2).withAlarms l ∧
      x.core = ((s.source id).evaluate (s.holdOf id) (s.releaseOf id) raw).1.core ∧
      (((s.source id).evaluate (s.holdOf id) (s.releaseOf id) raw).2 = none →
        x = ((s.source id).evaluate (s.holdOf id) (s.releaseOf id) raw).1 ∧ l = s.alarms) ∧
      ∀ up, ((s.source id).evaluate (s.holdOf id) (s.releaseOf id) raw).2 = some up →
        s.reported ((s.setSource id x).withAlarms l) id up q := by
  have deferral := (s.source id).evaluate_unreported (s.holdOf id) (s.releaseOf id) raw
  unfold State.stepSource
  dsimp only
  revert deferral
  generalize (s.source id).evaluate (s.holdOf id) (s.releaseOf id) raw = r
  obtain ⟨x, moved⟩ := r
  intro ⟨hu, hc⟩
  cases moved with
  | none =>
    refine ⟨x, s.alarms, ?_, rfl, fun _ => ⟨rfl, rfl⟩, nofun⟩
    show (s.setSource id x).protectiveAction id x.state none = _
    rw [State.acted, ← State.protectiveAction_withAlarms, ← State.setSource_alarms s id x, State.withAlarms_self]
  | some up =>
    obtain ⟨y, l, eq, core⟩ := (s.setSource id x).report_eq id up q
    rw [State.setSource_setSource] at eq
    rw [State.source_setSource_same] at core
    refine ⟨y, l, ?_, core, nofun, fun up' e => ?_⟩
    · show ((s.setSource id x).report id up q).protectiveAction id x.state (some up) = _
      rw [eq, State.protectiveAction_withAlarms]
      rfl
    · cases e
      exact State.reported_of_setSource (eq ▸ State.reported_report (s.setSource id x) id up q) hu hc

/-- A step acts on no other source. -/
theorem State.source_acted (s : State) (id id2 : SourceId) (x : Source) (st : SourceState) (moved : Option Bool) :
    (s.acted id x st moved).source id2 = if id2 = id then x else s.source id2 := by
  have keeps : KeepsScreens fun u => ∀ id2, u.source id2 = (s.setSource id x).source id2 :=
    ⟨fun _ _ _ hy hu id2 => (hy.tracked.source_setScreen id2).trans (hu id2)⟩
  rw [← State.source_setSource]
  exact State.protectiveAction_keeps keeps (fun _ => rfl) id2

theorem State.source_stepSource_other {raw : Option Bool} {q : Half} {id2 : SourceId} (h : id2 ≠ id) :
    (s.stepSource id raw q).source id2 = s.source id2 := by
  obtain ⟨x, l, eq, -⟩ := s.stepSource_eq id raw q
  rw [eq, State.source_withAlarms, State.source_acted, if_neg h]

/-- Two screens that differ in their sources and feeds alone. -/
def Screen.Resourced (x y : Screen) : Prop :=
  y = { x with track := y.track, dropout := y.dropout, preset := y.preset, cue := y.cue, feeds := y.feeds }

theorem Screen.Resourced.trans {x y z : Screen} (h : x.Resourced y) (h2 : y.Resourced z) : x.Resourced z := by
  unfold Screen.Resourced at *
  exact h2.trans (congrArg (fun v : Screen =>
    { v with track := z.track, dropout := z.dropout, preset := z.preset, cue := z.cue, feeds := z.feeds }) h)

theorem State.resourced_onScreen {f : Screen → Screen} (hf : ∀ x : Screen, x.Resourced (f x)) (j : Fin 12) :
    (s.screen j).Resourced ((s.onScreen i f).screen j) := by
  rw [State.screen_onScreen]
  split
  · exact hf _
  · rfl

theorem State.resourced_setSource (s : State) (id : SourceId) (x : Source) (j : Fin 12) :
    (s.screen j).Resourced ((s.setSource id x).screen j) := by
  unfold State.setSource
  cases id with
  | trunk | senselink => rfl
  | _ => apply State.resourced_onScreen; exact fun _ => rfl

theorem State.resourced_protectiveAction (s : State) (id : SourceId) (st : SourceState) (moved : Option Bool) (j : Fin 12) :
    (s.screen j).Resourced ((s.protectiveAction id st moved).screen j) := by
  unfold State.protectiveAction
  split
  · split
    · apply State.resourced_onScreen; exact fun _ => rfl
    · rfl
  · split
    · rename_i i k _
      refine Screen.Resourced.trans (y := (s.onFeed i k fun y => { y with folded := true }).screen j) ?_ ?_
      · apply State.resourced_onScreen; exact fun _ => rfl
      · apply State.resourced_onScreen; exact fun _ => rfl
    · rfl
  · rfl

/-- Of a screen, a step changes the sources and the feeds alone. -/
theorem State.resourced_acted (s : State) (id : SourceId) (x : Source) (st : SourceState) (moved : Option Bool)
    (j : Fin 12) : (s.screen j).Resourced ((s.acted id x st moved).screen j) :=
  (s.resourced_setSource id x j).trans (State.resourced_protectiveAction _ id st moved j)

/-- The feeds after a step of a source that is no MISMATCH of a feed to be folded. -/
theorem State.feed_acted (s : State) (id : SourceId) (x : Source) (st : SourceState) (moved : Option Bool)
    (h : ∀ i k, id = .mismatch i k → ¬ ((s.feedSet i k).fold = true ∧ moved = some true)) (j : Fin 12) (p : Fin 16) :
    (s.acted id x st moved).feed j p = { s.feed j p with
      overload := if id = .overload j p then x else (s.feed j p).overload
      silent := if id = .silent j p then x else (s.feed j p).silent
      mismatch := if id = .mismatch j p then x else (s.feed j p).mismatch
      protect := if id = .overload j p ∧ (s.feedSet j p).protect = true then (s.feed j p).protect.after st moved
        else (s.feed j p).protect } := by
  unfold State.acted State.protectiveAction
  cases id with
  | overload i k =>
    dsimp only
    rw [State.feedSet_setSource, State.setSource, State.onFeed_onFeed]
    by_cases same : j = i ∧ p = k
    · obtain ⟨rfl, rfl⟩ := same
      split
      case isTrue protect => simp [protect]
      case isFalse protect => simp [protect]
    · have other : ¬ (i = j ∧ k = p) := fun e => same ⟨e.1.symm, e.2.symm⟩
      split <;> simp [State.feed_onFeed, same, other]
  | silent i k =>
    dsimp only
    rw [State.setSource, State.feed_onFeed]
    by_cases same : j = i ∧ p = k
    · obtain ⟨rfl, rfl⟩ := same; simp
    · have other : ¬ (i = j ∧ k = p) := fun e => same ⟨e.1.symm, e.2.symm⟩
      simp [same, other]
  | mismatch i k =>
    dsimp only
    rw [State.feedSet_setSource, if_neg (h i k rfl), State.setSource, State.feed_onFeed]
    by_cases same : j = i ∧ p = k
    · obtain ⟨rfl, rfl⟩ := same; simp
    · have other : ¬ (i = j ∧ k = p) := fun e => same ⟨e.1.symm, e.2.symm⟩
      simp [same, other]
  | trunk => simp [State.setSource]; rfl
  | senselink => simp [State.setSource]; rfl
  | _ =>
    simp only [reduceCtorEq, false_and, if_false, State.setSource, State.feed_onScreen]
    split <;> rfl

/-- The feeds after the MISMATCH step that folds a feed (R37, R116). -/
theorem State.feed_acted_fold (s : State) (x : Source) (st : SourceState) (hf : (s.feedSet i k).fold = true)
    (j : Fin 12) (p : Fin 16) :
    (s.acted (.mismatch i k) x st (some true)).feed j p = { s.feed j p with
      mismatch := if j = i ∧ p = k then x else (s.feed j p).mismatch
      folded := if j = i ∧ p = k then true else (s.feed j p).folded
      row := ((s.acted (.mismatch i k) x st (some true)).feed j p).row
      fold := ((s.acted (.mismatch i k) x st (some true)).feed j p).fold } := by
  unfold State.acted State.protectiveAction
  dsimp only
  rw [State.feedSet_setSource, if_pos ⟨hf, rfl⟩, State.setSource, State.setFolded, State.onFeed_onFeed, State.feed_rebuild,
    State.feed_onFeed]
  by_cases hj : j = i
  · by_cases same : j = i ∧ p = k
    · simp [hj, same]
    · have other : ¬ p = k := fun e => same ⟨hj, e⟩
      simp [hj, other]
  · simp [hj]

theorem State.acted_fold_rows (s : State) (x : Source) (st : SourceState) (hf : (s.feedSet i k).fold = true) (p : Fin 16) :
    ((s.acted (.mismatch i k) x st (some true)).feed i p).row =
        effectiveRow (s.formatFor (s.screen i).effectiveCode) ((s.acted (.mismatch i k) x st (some true)).screen i).out p ∧
      ((s.acted (.mismatch i k) x st (some true)).feed i p).fold =
        foldStateOf (s.formatFor (s.screen i).effectiveCode) ((s.acted (.mismatch i k) x st (some true)).screen i).out p := by
  unfold State.acted State.protectiveAction
  dsimp only
  rw [State.feedSet_setSource, if_pos ⟨hf, rfl⟩, State.setSource, State.setFolded, State.onFeed_onFeed]
  have code : ∀ g, ((s.onFeed i k g).screen i).effectiveCode = (s.screen i).effectiveCode := fun g => by
    rw [State.onFeed, State.screen_onScreen_same]; rfl
  have rows := (s.onFeed i k fun y => { y with mismatch := x, folded := true }).rebuild_rows i p
  rw [code] at rows
  exact rows

/-- Two states that differ in their screens, sources and alarm lists alone. -/
def State.Alarmed (s t : State) : Prop :=
  { t with screens := s.screens, trunk := s.trunk, senselink := s.senselink, alarms := s.alarms } = s

theorem State.Alarmed.eq (h : s.Alarmed t) :
    t = { s with screens := t.screens, trunk := t.trunk, senselink := t.senselink, alarms := t.alarms } := by
  unfold State.Alarmed at h
  exact congrArg (fun v : State =>
    { v with screens := t.screens, trunk := t.trunk, senselink := t.senselink, alarms := t.alarms }) h

theorem State.keepsAlarms_alarmed (s : State) : KeepsAlarms s.Alarmed where
  screen := fun _ _ _ _ h => h
  source := fun _ id _ _ h => by cases id <;> exact h
  defer := fun _ id _ _ h => by cases id <;> exact h
  alarmUpdate := fun _ _ _ h => h
  alarmAdd := fun _ _ _ _ _ h => h

/-- A step leaves everything but screens, sources and the alarm list. -/
theorem State.stepSource_frame (s : State) (id : SourceId) (raw : Option Bool) (q : Half) :
    s.Alarmed (s.stepSource id raw q) := State.stepSource_keeps s.keepsAlarms_alarmed rfl

end
end Sys2Proof.Machine

/-! The alarm events where they are due (R97 to R99, R111 to R113, R116) and the sense blocks (R12, R93, R94, R102). -/

namespace Sys2Proof.Machine

set_option Elab.async false

section
variable {s t : State} {id : SourceId} {x : Source} {h r : Nat} {raw : Option Bool} {i : Fin 12} {k : Fin 16}

/-! ### The two transitions of a step -/

/-- Where a step raises a source, and the record that it leaves then (R97, R99). -/
theorem Source.evaluate_raised_iff : (x.evaluate h r raw).2 = some true ↔ raw = some true ∧
    (x.state = .clear ∧ h ≤ 1 ∨ x.state = .onset ∧ h ≤ x.count + 1) := by
  rcases raw with _ | _ | _
  · simp [Source.evaluate]
  · cases hx : x.state <;> simp only [Source.evaluate, hx] <;> (try split) <;> simp
  · cases hx : x.state <;> simp only [Source.evaluate, hx] <;> (try split) <;> simp [*]

theorem Source.evaluate_of_raised (hr : (x.evaluate h r raw).2 = some true) :
    (x.evaluate h r raw).1 = { x with state := .active, count := 0, latched := true } := by
  obtain ⟨rfl, ⟨hx, hh⟩ | ⟨hx, hh⟩⟩ := Source.evaluate_raised_iff.mp hr
  · rw [Source.evaluate_true_of_clear hx, if_pos hh]
  · rw [Source.evaluate_true_of_onset hx, if_pos hh]

/-- Where a step clears a source, and the record that it leaves then (R97, R99). -/
theorem Source.evaluate_cleared_iff : (x.evaluate h r raw).2 = some false ↔ raw = some false ∧
    (x.state = .active ∧ r ≤ 1 ∨ x.state = .release ∧ r ≤ x.count + 1) := by
  rcases raw with _ | _ | _
  · simp [Source.evaluate]
  · cases hx : x.state <;> simp only [Source.evaluate, hx] <;> (try split) <;> simp [*]
  · cases hx : x.state <;> simp only [Source.evaluate, hx] <;> (try split) <;> simp

theorem Source.evaluate_of_cleared (hr : (x.evaluate h r raw).2 = some false) :
    (x.evaluate h r raw).1 = { x with state := .clear, count := 0 } := by
  obtain ⟨rfl, ⟨hx, hh⟩ | ⟨hx, hh⟩⟩ := Source.evaluate_cleared_iff.mp hr
  · rw [Source.evaluate_false_of_active hx, if_pos hh]
  · rw [Source.evaluate_false_of_release hx, if_pos hh]

/-! ### A transition made now -/

theorem State.stepNow_moved {up : Bool} (hm : (s.nextStep id).2 = some up) :
    ∃ x l, s.stepNow id = (s.acted id x (s.nextStep id).1.state (some up)).withAlarms l ∧
      x.core = (s.nextStep id).1.core ∧ s.reported (s.stepNow id) id up (s.stepSeq id) := by
  obtain ⟨x, l, eq, core, -, reported⟩ := s.stepSource_eq id (s.rawOf id) (s.stepSeq id)
  have moved : ((s.source id).evaluate (s.holdOf id) (s.releaseOf id) (s.rawOf id)).2 = some up := hm
  rw [moved] at eq
  refine ⟨x, l, eq, core, State.reported_congr ?_ ?_ (reported up moved)⟩
  · exact congrArg (·.alarms) eq
  · rw [State.stepNow, eq, State.source_withAlarms, State.source_acted, if_pos rfl, State.source_withAlarms,
      State.source_setSource_same]

/-- The number a transition of OVER or SILENT is reported with: that of the block metered last (R98). -/
theorem State.stepSeq_metered (hid : id = .overload i k ∨ id = .silent i k) :
    ∀ e ∈ (s.feed i k).meter.ring.head?, s.stepSeq id = e.1 := by
  intro e he
  have head : (s.feed i k).meter.ring.head? = some e := he
  rcases hid with rfl | rfl <;> simp [State.stepSeq, State.meteredSeq, head]

/-- That of a MISMATCH: the number of the sense block taken last (R98). -/
theorem State.stepSeq_mismatch (hid : id = .mismatch i k) : ∀ q ∈ s.sense.lastGood, s.stepSeq id = q := by
  intro q hq
  have last : s.sense.lastGood = some q := hq
  simp [hid, State.stepSeq, last]

/-- That of a screen or device source: the outgoing number (R98). -/
theorem State.stepSeq_other (hid : ∀ i k, id ≠ .overload i k ∧ id ≠ .silent i k ∧ id ≠ .mismatch i k) :
    s.stepSeq id = s.outSeq := by
  cases id with
  | overload i k => exact absurd rfl (hid i k).1
  | silent i k => exact absurd rfl (hid i k).2.1
  | mismatch i k => exact absurd rfl (hid i k).2.2
  | _ => rfl

/-- CUE has no raw condition, so that its next step makes no transition (R104). -/
theorem State.ne_cue_of_moved {up : Bool} (hm : (s.nextStep id).2 = some up) (j : Fin 12) : SourceId.cue j ≠ id := by
  rintro rfl
  cases hm

theorem State.stepNow_source_other {id2 : SourceId} (hid : id2 ≠ id) : (s.stepNow id).source id2 = s.source id2 :=
  State.source_stepSource_other hid

/-- Of a screen, a transition changes the sources but CUE, and the feeds. -/
theorem State.stepNow_screen {up : Bool} (hm : (s.nextStep id).2 = some up) (j : Fin 12) :
    (s.stepNow id).screen j = { s.screen j with
      track := ((s.stepNow id).screen j).track
      dropout := ((s.stepNow id).screen j).dropout
      preset := ((s.stepNow id).screen j).preset
      feeds := ((s.stepNow id).screen j).feeds } := by
  have cue : ((s.stepNow id).screen j).cue = (s.screen j).cue :=
    State.stepNow_source_other (id2 := .cue j) (State.ne_cue_of_moved hm j)
  obtain ⟨x, l, eq, -⟩ := State.stepNow_moved hm
  have changed : (s.screen j).Resourced ((s.stepNow id).screen j) := by
    rw [eq, State.screen_withAlarms]; exact s.resourced_acted id x _ _ j
  unfold Screen.Resourced at changed
  rwa [cue] at changed

/-- Settles O23: a transition is a step, whose record, report, protective action and frame the laws of steps give. -/
theorem alarmRaised : Obligations.AlarmRaised := by
  intro s src
  refine ⟨decide_eq_true_iff.trans Source.evaluate_raised_iff,
    fun off => congrArg Host.Outcome.next (if_neg (ne_true_of_eq_false off)), fun due => ?_⟩
  have moved : (s.nextStep src).2 = some true := of_decide_eq_true due
  have record : (s.nextStep src).1 = { s.source src with state := .active, count := 0, latched := true } :=
    Source.evaluate_of_raised moved
  refine ⟨s.stepNow src, congrArg Host.Outcome.next (if_pos due), ?_⟩
  have frame := (s.stepSource_frame src (s.rawOf src) (s.stepSeq src)).eq
  have screens := State.stepNow_screen moved
  have others : ∀ id, id ≠ src → (s.stepNow src).source id = s.source id := fun _ => State.stepNow_source_other
  obtain ⟨x, l, eq, core, reported⟩ := State.stepNow_moved moved
  have own : (s.stepNow src).source src = x := by
    rw [eq, State.source_withAlarms, State.source_acted, if_pos rfl]
  have feed : ∀ i k, (s.stepNow src).feed i k = (s.acted src x (s.nextStep src).1.state (some true)).feed i k :=
    fun i k => by rw [eq, State.feed_withAlarms]
  have fields := Source.core_fields core
  rw [record] at fields
  refine ⟨own ▸ fields.1, own ▸ fields.2.1, own ▸ fields.2.2, others, reported, fun i k => State.stepSeq_metered,
    fun i k => State.stepSeq_mismatch, State.stepSeq_other, ?_⟩
  by_cases folds : ∃ i k, src = .mismatch i k ∧ (s.feedSet i k).fold = true
  · obtain ⟨i, k, rfl, fold⟩ := folds
    have folded := State.feed_acted_fold s x (s.nextStep (.mismatch i k)).1.state fold
    refine ⟨nofun, fun i' k' e _ => ?_, fun none => ?_, screens, fun i' k' => ⟨?_, fun _ => ?_, fun ne => ?_⟩, frame⟩
    · obtain ⟨rfl, rfl⟩ : i = i' ∧ k = k' := by simpa using e
      have rows := State.acted_fold_rows s x (s.nextStep (.mismatch i k)).1.state fold
      refine ⟨by rw [feed, folded]; simp, fun q => ?_⟩
      have out : ((s.stepNow (.mismatch i k)).screen i).out =
          ((s.acted (.mismatch i k) x (s.nextStep (.mismatch i k)).1.state (some true)).screen i).out := by
        rw [eq, State.screen_withAlarms]
      rw [feed, out]
      exact rows q
    · rcases none i k with ne | off
      · exact absurd rfl ne
      · rw [fold] at off; cases off
    · rw [feed, folded]
    · rw [feed, folded]
    · have other : ¬ (i' = i ∧ k' = k) := fun ⟨hi, hk⟩ => ne (by rw [hi, hk])
      rw [feed, folded]
      exact if_neg other
  · have stays := State.feed_acted s src x (s.nextStep src).1.state (some true)
      fun i k e ⟨fold, _⟩ => folds ⟨i, k, e, fold⟩
    refine ⟨fun i k e => ?_, fun i k e fold => absurd ⟨i, k, e, fold⟩ folds, fun _ i k => ?_, screens,
      fun i k => ⟨?_, fun ne => ?_, fun _ => ?_⟩, frame⟩
    · rw [feed, stays, e]
      by_cases protect : (s.feedSet i k).protect = true
      · simp [protect, Protect.after, stepUp]
      · simp [protect]
    · rw [feed, stays]; exact ⟨rfl, rfl, rfl⟩
    · rw [feed, stays]
    · rw [feed, stays]; exact if_neg fun c => ne c.1
    · rw [feed, stays]

/-- Settles O24: a transition is a step, whose record, report, protective action and frame the laws of steps give. -/
theorem alarmCleared : Obligations.AlarmCleared := by
  intro s src
  refine ⟨decide_eq_true_iff.trans Source.evaluate_cleared_iff,
    fun off => congrArg Host.Outcome.next (if_neg (ne_true_of_eq_false off)), fun due => ?_⟩
  have moved : (s.nextStep src).2 = some false := of_decide_eq_true due
  have record : (s.nextStep src).1 = { s.source src with state := .clear, count := 0 } := Source.evaluate_of_cleared moved
  refine ⟨s.stepNow src, congrArg Host.Outcome.next (if_pos due), ?_⟩
  have frame := (s.stepSource_frame src (s.rawOf src) (s.stepSeq src)).eq
  have screens := State.stepNow_screen moved
  have others : ∀ id, id ≠ src → (s.stepNow src).source id = s.source id := fun _ => State.stepNow_source_other
  obtain ⟨x, l, eq, core, reported⟩ := State.stepNow_moved moved
  have own : (s.stepNow src).source src = x := by
    rw [eq, State.source_withAlarms, State.source_acted, if_pos rfl]
  have fields := Source.core_fields core
  rw [record] at fields
  refine ⟨own ▸ fields.1, own ▸ fields.2.1, own ▸ fields.2.2, others, reported, fun i k => State.stepSeq_metered,
    fun i k => State.stepSeq_mismatch, State.stepSeq_other, screens, fun i k => ?_, frame⟩
  rw [eq, State.feed_withAlarms, State.feed_acted s src x _ _ fun _ _ _ c => by cases c.2]
  rfl

/-! ### Protection -/

theorem State.onFeed_congr {f g : Feed → Feed} (hf : f (s.feed i k) = g (s.feed i k)) : s.onFeed i k f = s.onFeed i k g := by
  show s.setScreen i ((s.screen i).setFeed k (f (s.feed i k))) = s.setScreen i ((s.screen i).setFeed k (g (s.feed i k)))
  rw [hf]

/-- An OVER step without a transition, under PROTECT (R111). -/
theorem State.stepNow_over (hp : (s.feedSet i k).protect = true) {x : Source}
    (hs : s.nextStep (.overload i k) = (x, none)) :
    s.stepNow (.overload i k) =
      s.onFeed i k fun y => { y with overload := x, protect := y.protect.after x.state none } := by
  have next : (s.source (.overload i k)).evaluate (s.holdOf (.overload i k)) (s.releaseOf (.overload i k))
      (s.rawOf (.overload i k)) = (x, none) := hs
  unfold State.stepNow State.stepSource
  rw [next]
  show (s.setSource (.overload i k) x).protectiveAction (.overload i k) x.state none = _
  unfold State.protectiveAction
  dsimp only
  rw [State.feedSet_setSource, if_pos hp, State.setSource, State.onFeed_onFeed]

theorem State.overStays_of (hp : (s.feedSet i k).protect = true) {x : Source}
    (hs : s.nextStep (.overload i k) = (x, none)) : s.overStays i k x.state = true := by
  unfold State.overStays
  rw [hs, hp]
  simp

/-- Settles O27: the step's outcome from ACTIVE, RELEASE and CLEAR, and the protect record after it. -/
theorem protectSteps : Obligations.ProtectSteps := by
  intro s i k hp
  have escalated : ∀ {x : Source}, s.nextStep (.overload i k) = (x, none) → x.state = .active →
      (s.feed i k).protect.escalation = 255 → exec (.protectEscalation i k) s = .next (s.onFeed i k fun y =>
        { y with overload := x, protect := ⟨min 4 (y.protect.step + 1), 0, 0⟩ }) := fun {x} hs active full => by
    have due : s.escalateDue i k = true := by
      have stays := State.overStays_of hp hs
      rw [active] at stays
      rw [State.escalateDue, stays, full]
      rfl
    refine congrArg Host.Outcome.next ((if_pos due).trans ((State.stepNow_over hp hs).trans (State.onFeed_congr ?_)))
    simp only [Protect.after, active, full]
    rfl
  refine ⟨fun active loud full => ?_, fun release loud full => ?_, fun clear quiet full => ?_⟩
  · have raw : s.rawOf (.overload i k) = some true := by simp [State.rawOf, overRaw, active, loud]
    have next : s.nextStep (.overload i k) = ((s.feed i k).overload, none) := by
      rw [State.nextStep, raw]; exact Source.evaluate_true_of_active active
    rw [escalated next active full]
    exact congrArg Host.Outcome.next (State.onFeed_congr rfl)
  · have raw : s.rawOf (.overload i k) = some true := by simp [State.rawOf, overRaw, release, loud]
    have next : s.nextStep (.overload i k) = ({ (s.feed i k).overload with state := .active, count := 0 }, none) := by
      rw [State.nextStep, raw]; exact Source.evaluate_true_of_release release
    rw [escalated next rfl full]
    exact congrArg Host.Outcome.next (State.onFeed_congr rfl)
  · have raw : s.rawOf (.overload i k) = some false := by
      simp only [State.rawOf, overRaw, clear, Option.some.injEq, decide_eq_false_iff_not]
      omega
    have next : s.nextStep (.overload i k) = ((s.feed i k).overload, none) := by
      rw [State.nextStep, raw]; exact Source.evaluate_false_of_clear clear
    have due : s.recoverDue i k = true := by
      have stays := State.overStays_of hp next
      rw [clear] at stays
      rw [State.recoverDue, stays, full]
      rfl
    refine congrArg Host.Outcome.next ((if_pos due).trans ((State.stepNow_over hp next).trans (State.onFeed_congr ?_)))
    simp only [Protect.after, clear, full]
    rfl

end
end Sys2Proof.Machine

/-! Sense blocks (R12, R93, R94, R102): a block taken steps every MISMATCH source, each by its own feed's record. -/

namespace Sys2Proof.Machine

set_option Elab.async false

section
variable {s t : State} {id : SourceId} {i j : Fin 12} {k p : Fin 16}

/-! ### A step for each feed -/

/-- Steps of the feeds that each change a view of their own feed alone, by the view and what all steps leave: after them
every feed's view is its own step's. -/
theorem State.forFeeds_each {α β : Type} {f : Fin 12 → Fin 16 → State → State} {common : State → β}
    {view : State → Fin 12 → Fin 16 → α} {next : Fin 12 → Fin 16 → β → α → α}
    (hc : ∀ i k u, common (f i k u) = common u)
    (hself : ∀ i k u, view (f i k u) i k = next i k (common u) (view u i k))
    (hother : ∀ i k u j p, ¬ (j = i ∧ p = k) → view (f i k u) j p = view u j p) (s : State) :
    common (s.forFeeds f) = common s ∧ ∀ i k, view (s.forFeeds f) i k = next i k (common s) (view s i k) := by
  have steps : ∀ l : List (Fin 12 × Fin 16), l.Nodup → ∀ s : State,
      let t := l.foldl (fun t p => f p.1 p.2 t) s
      common t = common s ∧ ∀ p : Fin 12 × Fin 16, view t p.1 p.2 =
        if p ∈ l then next p.1 p.2 (common s) (view s p.1 p.2) else view s p.1 p.2 := by
    intro l
    induction l with
    | nil => exact fun _ s => ⟨rfl, fun p => (if_neg (List.not_mem_nil)).symm⟩
    | cons a l ih =>
      intro hn s
      rw [List.nodup_cons] at hn
      obtain ⟨kept, views⟩ := ih hn.2 (f a.1 a.2 s)
      refine ⟨kept.trans (hc ..), fun p => ?_⟩
      rw [List.foldl_cons, views p, hc]
      by_cases same : p = a
      · subst same
        rw [if_neg hn.1, if_pos List.mem_cons_self, hself]
      · have other : ¬ (p.1 = a.1 ∧ p.2 = a.2) := fun e => same (Prod.ext e.1 e.2)
        rw [hother _ _ _ _ _ other]
        simp only [List.mem_cons, same, false_or]
  have flat : s.forFeeds f =
      ((List.finRange 12).product (List.finRange 16)).foldl (fun t p => f p.1 p.2 t) s := by
    unfold State.forFeeds State.forScreens List.product
    rw [List.foldl_flatMap]
    simp only [List.foldl_map]
  obtain ⟨kept, views⟩ := steps _ ((List.nodup_finRange 12).product (List.nodup_finRange 16)) s
  rw [flat]
  exact ⟨kept, fun i k => (views (i, k)).trans (if_pos (by simp [List.product]))⟩

/-! ### One report of a sense block -/

/-- What a feed's MISMATCH steps read and change: its meter record, its source without the deferral, its place in the fold
set. -/
def State.senseView (s : State) (i : Fin 12) (k : Fin 16) : Meter × Source × Bool :=
  ((s.feed i k).meter, (s.feed i k).mismatch.core, (s.feed i k).folded)

/-- What the reports of a sense block leave of what they read: the lock state of SENSE IN and the live sets. -/
def State.senseCommon (s : State) : LockMachine × (Fin 12 → RoomSet) := (s.sense, fun i => (s.screen i).live)

/-- The raw condition of a feed's MISMATCH step at a sense block (R94, R102, R117). -/
def senseRaw (m : LockMachine) (live : RoomSet) (f : FeedSet) (q : Half) (code : Nat) (fault : Bool)
    (v : Meter × Source × Bool) : Option Bool :=
  if v.2.2 then none
  else (ringFind v.1.ring (q - BitVec.ofNat 16 live.senseLag)).map fun lc =>
    mismatchRaw f (decide (m.state = .locked)) fault lc code

/-- A feed's view after its report (R93, R97, R116). -/
def senseNext (q : Half) (code : Nat) (fault : Bool) (k : Fin 16) (m : LockMachine) (live : RoomSet)
    (v : Meter × Source × Bool) : Meter × Source × Bool :=
  let f : FeedSet := live.feeds[k]
  let r := v.2.1.evaluate f.mismatchHold f.mismatchRelease (senseRaw m live f q code fault v)
  ({ v.1 with lastSense := code }, r.1, v.2.2 || f.fold && decide (r.2 = some true))

/-- The view of each feed after a MISMATCH step of feed i.k. -/
theorem State.senseView_acted (s : State) (x : Source) (st : SourceState) (moved : Option Bool) (i j : Fin 12)
    (k p : Fin 16) :
    (s.acted (.mismatch i k) x st moved).senseView j p = if j = i ∧ p = k then
      ((s.feed i k).meter, x.core, (s.feed i k).folded || (s.feedSet i k).fold && decide (moved = some true))
    else s.senseView j p := by
  unfold State.senseView
  by_cases folds : (s.feedSet i k).fold = true ∧ moved = some true
  · obtain ⟨fold, rfl⟩ := folds
    rw [State.feed_acted_fold s x st fold j p]
    by_cases same : j = i ∧ p = k
    · obtain ⟨rfl, rfl⟩ := same; simp [fold]
    · simp only [same, if_false]
  · have stays := State.feed_acted s (.mismatch i k) x st moved (fun _ _ e => by cases e; exact folds) j p
    rw [stays]
    by_cases same : j = i ∧ p = k
    · obtain ⟨rfl, rfl⟩ := same
      have unmoved : ((s.feedSet j p).fold && decide (moved = some true)) = false := by
        cases hf : (s.feedSet j p).fold
        · rfl
        · exact decide_eq_false fun e => folds ⟨hf, e⟩
      simp [unmoved]
    · have other : ¬ (i = j ∧ k = p) := fun e => same ⟨e.1.symm, e.2.symm⟩
      simp [same, other]

theorem Screen.Resourced.live {x y : Screen} (h : x.Resourced y) : y.live = x.live := by
  unfold Screen.Resourced at h; rw [h]

/-- A MISMATCH step, in what these steps read and change. -/
theorem State.stepSource_mismatch (s : State) (i : Fin 12) (k : Fin 16) (raw : Option Bool) (q : Half) :
    (s.stepSource (.mismatch i k) raw q).senseCommon = s.senseCommon ∧
      ∀ j p, (s.stepSource (.mismatch i k) raw q).senseView j p = if j = i ∧ p = k then
        let r := (s.feed i k).mismatch.core.evaluate (s.feedSet i k).mismatchHold (s.feedSet i k).mismatchRelease raw
        ((s.feed i k).meter, r.1, (s.feed i k).folded || (s.feedSet i k).fold && decide (r.2 = some true))
      else s.senseView j p := by
  obtain ⟨x, l, eq, core, -⟩ := s.stepSource_eq (.mismatch i k) raw q
  have sense : (s.stepSource (.mismatch i k) raw q).sense = s.sense :=
    congrArg (·.sense) (s.stepSource_frame (.mismatch i k) raw q).eq
  refine ⟨Prod.ext sense (funext fun j => ?_), fun j p => ?_⟩
  · show (State.screen _ j).live = _
    rw [eq, State.screen_withAlarms, (s.resourced_acted _ x _ _ j).live]
    rfl
  · have evaluated := Source.evaluate_core (s.feed i k).mismatch (s.feedSet i k).mismatchHold
      (s.feedSet i k).mismatchRelease raw
    have record : x.core = ((s.feed i k).mismatch.evaluate (s.feedSet i k).mismatchHold
      (s.feedSet i k).mismatchRelease raw).1.core := core
    dsimp only
    rw [eq, evaluated, ← record]
    exact s.senseView_acted x _ _ i j k p

/-- The last sense code and the fault flag of a feed, as a sense block gives them (R94). -/
def State.noteSense (s : State) (i : Fin 12) (k : Fin 16) (code : Nat) (fault : Bool) : State :=
  s.onFeed i k fun y => { y with meter := { y.meter with lastSense := code }, senseFault := fault }

theorem State.feed_noteSense (s : State) (i j : Fin 12) (k p : Fin 16) (code : Nat) (fault : Bool) :
    (s.noteSense i k code fault).feed j p = if j = i ∧ p = k then
      { s.feed j p with meter := { (s.feed j p).meter with lastSense := code }, senseFault := fault }
    else s.feed j p := State.feed_onFeed ..

theorem State.live_noteSense (s : State) (i j : Fin 12) (k : Fin 16) (code : Nat) (fault : Bool) :
    ((s.noteSense i k code fault).screen j).live = (s.screen j).live := by
  rw [State.noteSense, State.onFeed, State.screen_onScreen]
  split <;> rfl

/-- One report of a sense block, in what the MISMATCH steps read and change. -/
theorem State.senseReport_mismatch (s : State) (q : Half) (i : Fin 12) (k : Fin 16) (code : Nat) (fault : Bool) :
    (s.senseReport q i k code fault).senseCommon = s.senseCommon ∧
      ∀ j p, (s.senseReport q i k code fault).senseView j p = if j = i ∧ p = k then
        senseNext q code fault k s.senseCommon.1 (s.senseCommon.2 i) (s.senseView i k)
      else s.senseView j p := by
  have own := s.feed_noteSense i i k k code fault
  rw [if_pos ⟨rfl, rfl⟩] at own
  have live := fun j => s.live_noteSense i j k code fault
  have feed := fun j p => s.feed_noteSense i j k p code fault
  have report : s.senseReport q i k code fault = (s.noteSense i k code fault).stepSource (.mismatch i k)
    ((s.noteSense i k code fault).pairedRaw q i k) q := rfl
  have sense : (s.noteSense i k code fault).sense = s.sense := rfl
  rw [report]
  revert own live feed sense
  generalize s.noteSense i k code fault = u
  intro own live feed sense
  obtain ⟨common, view⟩ := u.stepSource_mismatch i k (u.pairedRaw q i k) q
  refine ⟨common.trans (Prod.ext sense (funext live)), fun j p => (view j p).trans ?_⟩
  split
  · have raw : u.pairedRaw q i k =
        senseRaw s.sense (s.screen i).live (s.feedSet i k) q code fault (s.senseView i k) := by
      unfold State.pairedRaw State.feedSet
      dsimp only
      rw [own, live, sense]
      rfl
    dsimp only
    rw [raw, own, State.feedSet, live]
    rfl
  · rename_i other
    unfold State.senseView
    rw [feed, if_neg other]

/-! ### A sense block -/

/-- Where the report of feed i.k stands in a sense block (R186). -/
def sensePlace (i : Fin 12) (k : Fin 16) : Nat := 6 + 3 * (16 * i.val + k.val)

/-- The reports of a sense block, feed by feed. -/
theorem State.senseReports_feed (s : State) (l : List Byte) (i : Fin 12) (k : Fin 16) :
    (s.senseReports l).senseView i k = senseNext (seqOf l) (fieldAt l (sensePlace i k) 2)
      ((byteAt l (sensePlace i k + 2)).getLsbD 0) k s.sense (s.screen i).live (s.senseView i k) :=
  (State.forFeeds_each (common := State.senseCommon) (view := State.senseView)
    (f := fun i k t => t.senseReport (seqOf l) i k (fieldAt l (sensePlace i k) 2)
      ((byteAt l (sensePlace i k + 2)).getLsbD 0))
    (next := fun i k c => senseNext (seqOf l) (fieldAt l (sensePlace i k) 2)
      ((byteAt l (sensePlace i k + 2)).getLsbD 0) k c.1 (c.2 i))
    (fun i k u => (u.senseReport_mismatch ..).1)
    (fun i k u => ((u.senseReport_mismatch ..).2 i k).trans (if_pos ⟨rfl, rfl⟩))
    (fun i k u j p other => ((u.senseReport_mismatch ..).2 j p).trans (if_neg other)) s).2 i k

theorem State.senseReports_source (s : State) (l : List Byte) (hid : ∀ i k, id ≠ .mismatch i k) :
    (s.senseReports l).source id = s.source id := by
  refine State.forFeeds_keeps (P := fun u => u.source id = s.source id) (fun i k u hu => ?_) rfl
  unfold State.senseReport
  dsimp only
  rw [State.source_stepSource_other (hid i k)]
  have keeps : KeepsScreens fun v => v.source id = s.source id :=
    ⟨fun _ _ _ hy hv => (hy.tracked.source_setScreen id).trans hv⟩
  exact State.onFeed_keeps keeps hu

/-- Two states that differ in their screens and alarm lists alone, where neither device source moved. -/
theorem State.Alarmed.eq_of_device (h : s.Alarmed t) (ht : t.source .trunk = s.source .trunk)
    (hs : t.source .senselink = s.source .senselink) : t = { s with screens := t.screens, alarms := t.alarms } := by
  have trunk : t.trunk = s.trunk := ht
  have senselink : t.senselink = s.senselink := hs
  have eq := h.eq
  rwa [trunk, senselink] at eq

theorem mismatchRaw_locked (f : FeedSet) (fault : Bool) (lc code : Nat) : mismatchRaw f true fault lc code =
    decide (0 < f.tolerance ∧ (fault = true ∨ f.senseFloor ≤ lc ∧ code * 256 < lc * f.tolerance)) := by
  simp [mismatchRaw, Bool.decide_and, Bool.decide_or]

/-- A good sense block that LOCKED takes, or that completes the lock, is the one whose reports are made. -/
theorem State.senseBlock_taken {l : List Byte} (good : senseGood l = true) (hs : s.sense.state = .locked ∨
    s.sense.state = .confirm ∧ seqOf l = s.sense.confirmSeq + 1 ∧ 3 ≤ s.sense.confirmCount + 1) :
    ∃ m : LockMachine, s.senseBlock true l = State.senseReports { s with sense := m } l ∧ m.state = .locked ∧
      m.lastGood = some (seqOf l) ∧ m.badRun = 0 ∧
      (s.sense.state = .locked → m = { s.sense with lastGood := some (seqOf l), badRun := 0 }) := by
  rcases hs with locked | ⟨confirm, next, goal⟩
  · refine ⟨s.sense.taken (seqOf l), ?_, locked, rfl, rfl, fun _ => rfl⟩
    simp only [State.senseBlock, locked, good, Bool.and_self, if_true]
  · have lock := LockMachine.confirmed_of_goal next goal
    refine ⟨s.sense.confirmed (seqOf l), ?_, by rw [lock], by rw [lock], by rw [lock], fun e => ?_⟩
    · simp only [State.senseBlock, confirm, good, Bool.and_self, if_true]
      exact if_pos (by rw [lock])
    · rw [confirm] at e; cases e

/-- Settles O17: the reports leave the lock state, feed by feed what a MISMATCH step leaves, and the rest by its frame. -/
theorem senseBlocks : Obligations.SenseBlocks := by
  intro s
  refine ⟨fun l good hs => ?_, fun locked => ?_⟩
  · obtain ⟨m, eq, locked, last, run, taken⟩ := State.senseBlock_taken good hs
    have frame : State.Alarmed { s with sense := m } (State.senseReports { s with sense := m } l) :=
      State.senseReports_keeps (State.keepsAlarms_alarmed _) rfl
    have sources : ∀ id, (∀ i k, id ≠ .mismatch i k) →
        (State.senseReports { s with sense := m } l).source id = s.source id := fun id hid =>
      (State.senseReports_source _ l hid).trans (by cases id <;> rfl)
    have sense : (State.senseReports { s with sense := m } l).sense = m := congrArg (·.sense) frame.eq
    refine ⟨State.senseReports { s with sense := m } l, congrArg Host.Outcome.next eq, by rw [sense, locked],
      by rw [sense, last], by rw [sense, run], ?_, fun e => by rw [sense, taken e], sources, fun i k => ?_⟩
    · rw [sense]
      exact frame.eq_of_device (sources .trunk nofun) (sources .senselink nofun)
    · have view := State.senseReports_feed { s with sense := m } l i k
      have raw : senseRaw m (s.screen i).live (s.feedSet i k) (seqOf l) (fieldAt l (sensePlace i k) 2)
          ((byteAt l (sensePlace i k + 2)).getLsbD 0) (s.senseView i k) =
          if (s.feed i k).folded then none else ((s.feed i k).meter.ring.find? fun e =>
            decide (e.1 = seqOf l - BitVec.ofNat 16 (s.screen i).live.senseLag)).map fun e =>
              decide (0 < (s.feedSet i k).tolerance ∧ ((byteAt l (sensePlace i k + 2)).getLsbD 0 = true ∨
                (s.feedSet i k).senseFloor ≤ e.2 ∧
                  fieldAt l (sensePlace i k) 2 * 256 < e.2 * (s.feedSet i k).tolerance)) := by
        unfold senseRaw State.senseView
        simp only [locked, decide_true, mismatchRaw_locked, ringFind, Option.map_map]
        rfl
      have evaluated := Source.evaluate_core (s.feed i k).mismatch (s.feedSet i k).mismatchHold
        (s.feedSet i k).mismatchRelease (senseRaw m (s.screen i).live (s.feedSet i k) (seqOf l)
          (fieldAt l (sensePlace i k) 2) ((byteAt l (sensePlace i k + 2)).getLsbD 0) (s.senseView i k))
      obtain ⟨meter, core, folded⟩ : _ ∧ _ ∧ _ := by
        simpa only [State.senseView, senseNext, Prod.mk.injEq] using view
      have core := Source.core_fields (core.trans (congrArg (·.1) evaluated))
      have folded := folded.trans (congrArg (fun r =>
        (s.feed i k).folded || (s.feedSet i k).fold && decide (r = some true)) (congrArg (·.2) evaluated))
      rw [raw] at core folded
      refine ⟨meter, ?_, ?_, ?_, ?_⟩
      · exact core.1
      · exact core.2.1
      · exact core.2.2
      · exact folded
  · show Host.Outcome.next (if s.sense.state = .locked then s.lostSense else s) = _
    rw [if_pos locked]
    simp only [State.lostSense, LockMachine.lose, locked]
    rfl

end
end Sys2Proof.Machine

/-! The requests of alarms and protection: ALARM-ACKNOWLEDGE (R108), FEED-RESTORE (R118) and PROTECT-RESET (R114). -/

namespace Sys2Proof.Machine

set_option Elab.async false

section
variable {s t : State} {id : SourceId} {i j : Fin 12} {k : Fin 16}

/-! ### A request taken at once -/

/-- A command that is the arrival of a message, at a state that takes it at once, carries out its request (R176, R177). -/
theorem State.exec_request (h : s.ready) {c : Instr} {m : Message} (hc : exec c s = .next (s.submit m))
    (hb : m.body.length ≤ 240) (k : RequestKind) (hk : kindOf m.kind = some k) (ha : k.admits m.body.length = true) :
    exec c s = .next (s.carryOut k m) := by
  rw [hc, State.submit_request s m h hb k hk ha]

/-! ### Sources forced to CLEAR, and sources unlatched -/

theorem mem_screenSources : id ∈ screenSources i ↔ id = .track i ∨ id = .dropout i ∨ id = .preset i ∨ id = .cue i := by
  simp [screenSources]

theorem mem_feedSources :
    id ∈ feedSources i ↔ ∃ k, id = .overload i k ∨ id = .silent i k ∨ id = .mismatch i k := by
  simp [feedSources]

/-- A source forced to CLEAR: its record but for a deferral, and the alarm list (R98). -/
theorem State.forceClear_eq (s : State) (id : SourceId) :
    ∃ x l, s.forceClear id = (s.setSource id x).withAlarms l ∧
      x.core = { (s.source id).core with state := .clear, count := 0 } := by
  unfold State.forceClear
  dsimp only
  split
  · obtain ⟨y, l, eq, core⟩ := s.report_eq id false s.outSeq
    refine ⟨_, l, by rw [eq, State.setSource_withAlarms, State.setSource_setSource, State.source_withAlarms,
      State.source_setSource_same], ?_⟩
    rw [← core]
    rfl
  · exact ⟨_, s.alarms, by rw [← State.setSource_withAlarms, State.withAlarms_self], rfl⟩

theorem State.source_forceClear_other {id2 : SourceId} (h : id2 ≠ id) : (s.forceClear id).source id2 = s.source id2 := by
  obtain ⟨x, l, eq, -⟩ := s.forceClear_eq id
  rw [eq, State.source_withAlarms, State.source_setSource_other h]

theorem State.source_forceClear_same (s : State) (id : SourceId) :
    ((s.forceClear id).source id).core = { (s.source id).core with state := .clear, count := 0 } := by
  obtain ⟨x, l, eq, core⟩ := s.forceClear_eq id
  rw [eq, State.source_withAlarms, State.source_setSource_same, core]

/-- A source acknowledged (R108). -/
def Source.unlatched (x : Source) : Source := if x.isUp then x else { x with latched := false }

theorem Source.unlatched_unlatched (x : Source) : x.unlatched.unlatched = x.unlatched := by
  cases h : x.isUp
  · have down : ({ x with latched := false } : Source).isUp = false := h
    simp [Source.unlatched, h, down]
  · simp [Source.unlatched, h]

theorem State.source_unlatch (s : State) (id id2 : SourceId) :
    (s.unlatch id).source id2 = if id2 = id then (s.source id2).unlatched else s.source id2 := by
  unfold State.unlatch Source.unlatched
  split
  case isTrue up => split <;> rename_i same <;> simp [same, up]
  case isFalse down =>
    rw [State.source_setSource]
    split
    · rename_i same; rw [same, if_neg down]
    · rfl

/-- Steps of a list of sources that each change their own source alone, by a change that made twice is made once, in what a
view reads: after them the sources of the list are changed, the others left. -/
theorem source_foldl {α : Type} {f : State → SourceId → State} {view : Source → α} {change : α → α}
    (twice : ∀ a, change (change a) = change a)
    (hf : ∀ u id id2, view ((f u id).source id2) = if id2 = id then change (view (u.source id2)) else view (u.source id2))
    (l : List SourceId) (s : State) (id : SourceId) :
    view ((l.foldl f s).source id) = if id ∈ l then change (view (s.source id)) else view (s.source id) := by
  induction l generalizing s with
  | nil => exact (if_neg List.not_mem_nil).symm
  | cons a l ih =>
    rw [List.foldl_cons, ih, hf]
    by_cases same : id = a
    · simp [same, twice]
    · simp [same]

theorem State.acknowledgeDevice_eq (s : State) : s.acknowledgeDevice =
    { s with trunk := s.trunk.unlatched, senselink := s.senselink.unlatched } := by
  have trunk : ∀ u : State, u.unlatch .trunk = { u with trunk := u.trunk.unlatched } := fun u => by
    unfold State.unlatch Source.unlatched
    rw [show u.source .trunk = u.trunk from rfl]
    split <;> rfl
  have senselink : ∀ u : State, u.unlatch .senselink = { u with senselink := u.senselink.unlatched } := fun u => by
    unfold State.unlatch Source.unlatched
    rw [show u.source .senselink = u.senselink from rfl]
    split <;> rfl
  show (s.unlatch .trunk).unlatch .senselink = _
  rw [trunk, senselink]

/-- The sources of a screen acknowledged: CUE is cleared first where it is up (R108). -/
theorem State.source_acknowledgeScreen (s : State) (i : Fin 12) (id : SourceId) :
    let u := if (s.screen i).cue.isUp then s.forceClear (.cue i) else s
    (s.acknowledgeScreen i).source id =
      if id ∈ screenSources i ++ feedSources i then (u.source id).unlatched else u.source id :=
  source_foldl (view := fun x => x) Source.unlatched_unlatched State.source_unlatch _ _ id

theorem screenOf_ne_zero {b : Byte} (h : screenOf b = some i) : b ≠ 0 := by
  rintro rfl
  cases h

/-- Settles O58: source by source, and the frame of the alarm events. -/
theorem alarmAcknowledged : Obligations.AlarmAcknowledged := by
  intro s tag scr ready running
  have request : exec (.alarmAcknowledge tag scr) s = .next (s.takeAlarmAcknowledge ⟨0x19, tag, scr, []⟩) :=
    State.exec_request ready rfl (Nat.zero_le _) .alarmAcknowledge rfl rfl
  have started : s.device ≠ .starting := by rw [running]; nofun
  refine ⟨fun zero => ?_, fun i screen => ?_⟩
  · refine ⟨s.acknowledgeDevice, ?_, ?_, ?_, ?_⟩
    · rw [request, State.takeAlarmAcknowledge, if_neg started, if_pos zero]
      rfl
    all_goals rw [State.acknowledgeDevice_eq]
    · rfl
    · rfl
  · have source := State.source_acknowledgeScreen s i
    have frame : s.Alarmed (s.acknowledgeScreen i) := State.acknowledgeScreen_keeps s.keepsAlarms_alarmed rfl
    have before : ∀ id, id ≠ .cue i →
        (if (s.screen i).cue.isUp then s.forceClear (.cue i) else s).source id = s.source id := fun id hid => by
      split
      · exact State.source_forceClear_other hid
      · rfl
    have outside : ∀ id, id ∉ screenSources i ++ feedSources i → (s.acknowledgeScreen i).source id = s.source id :=
      fun id hid => by
        have notCue : id ≠ .cue i := fun e => hid (by simp [e, screenSources])
        rw [source, if_neg hid, before id notCue]
    refine ⟨s.acknowledgeScreen i, ?_, ?_, ?_, fun id hid notCue => ?_, outside⟩
    · rw [request, State.takeAlarmAcknowledge, if_neg started, if_neg (screenOf_ne_zero screen)]
      dsimp only
      rw [screen]
      rfl
    · exact frame.eq_of_device (outside _ (by simp [mem_screenSources, mem_feedSources]))
        (outside _ (by simp [mem_screenSources, mem_feedSources]))
    · have cueDown : ((if (s.screen i).cue.isUp then s.forceClear (.cue i) else s).source (.cue i)).isUp = false := by
        split
        case isTrue up =>
          have state := congrArg (·.state) (s.source_forceClear_same (.cue i))
          exact (congrArg (fun st : SourceState => decide (st = .active) || decide (st = .release)) state).trans rfl
        case isFalse down => exact eq_false_of_ne_true down
      rw [source, if_pos (by simp [screenSources]), Source.unlatched, if_neg (ne_true_of_eq_false cueDown)]
      exact ⟨cueDown, rfl⟩
    · rw [source, if_pos hid, before id notCue]
      rfl

/-! ### FEED-RESTORE and PROTECT-RESET -/

theorem State.out_withAlarms (s : State) (l : List AlarmRecord) (j : Fin 12) :
    ((s.withAlarms l).screen j).out = (s.screen j).out := rfl

/-- A feed's MISMATCH record replaced leaves the rest of every feed. -/
theorem State.feed_setMismatch (s : State) (i j : Fin 12) (k p : Fin 16) (x : Source) :
    (s.setSource (.mismatch i k) x).feed j p =
      if j = i ∧ p = k then { s.feed j p with mismatch := x } else s.feed j p := State.feed_onFeed ..

theorem State.out_setSource (s : State) (id : SourceId) (x : Source) (j : Fin 12) :
    ((s.setSource id x).screen j).out = (s.screen j).out := by
  have frame : FeedsFrame none s (s.setSource id x) := s.setSource_feedsFrame id x
  have same := frame.1.screens j
  funext p
  rw [Screen.out, Screen.out, same.live, same.folded]

theorem State.screen_setFolded_other (s : State) (k : Fin 16) (v : Bool) (h : j ≠ i) :
    (s.setFolded i k v).screen j = s.screen j := by
  rw [State.setFolded, State.rebuild, State.screen_onScreen_other (h := h), State.onFeed,
    State.screen_onScreen_other (h := h)]

theorem State.feed_setFolded (s : State) (i : Fin 12) (k p : Fin 16) (v : Bool) :
    (s.setFolded i k v).feed i p = { s.feed i p with
      folded := if p = k then v else (s.feed i p).folded
      row := ((s.setFolded i k v).feed i p).row
      fold := ((s.setFolded i k v).feed i p).fold } := by
  rw [State.setFolded, State.feed_rebuild, if_pos rfl, State.feed_onFeed]
  by_cases same : p = k <;> simp [same]

theorem State.setFolded_rows (s : State) (i : Fin 12) (k p : Fin 16) (v : Bool) :
    ((s.setFolded i k v).feed i p).row =
      effectiveRow (s.formatFor (s.screen i).effectiveCode) ((s.setFolded i k v).screen i).out p := by
  have code : ((s.onFeed i k fun y => { y with folded := v }).screen i).effectiveCode = (s.screen i).effectiveCode := by
    rw [State.onFeed, State.screen_onScreen_same]; rfl
  have rows := (State.rebuild_rows (s.onFeed i k fun y => { y with folded := v }) i p).1
  rwa [code] at rows

/-- The code that a one-byte body carries. -/
theorem codeOf_byte {b : Byte} (h : b.toNat = k.val) : codeOf (fieldAt [b] 0 1) = some k := by
  have field : fieldAt [b] 0 1 = k.val := by rw [fieldAt_one, ← h]; rfl
  rw [field, codeOf, dif_pos k.isLt]

/-- Settles O59: the feed leaves the fold set, the matrix is rebuilt, and its MISMATCH source is forced to CLEAR. -/
theorem restoreAndReset : Obligations.RestoreAndReset := by
  intro s tag scr i ready running screen
  have started : s.device ≠ .starting := by rw [running]; nofun
  refine ⟨fun b k hb folded => ?_, ?_⟩
  · refine ⟨(s.setFolded i k false).forceClear (.mismatch i k), ?_, ?_⟩
    · rw [State.exec_request ready (m := ⟨0x1A, tag, scr, [b]⟩) rfl (by simp) .feedRestore rfl rfl]
      show Host.Outcome.next (s.takeFeedRestore _) = _
      rw [State.takeFeedRestore, if_neg started]
      dsimp only
      rw [screen, codeOf_byte hb]
      dsimp only
      rw [if_pos folded]
      rfl
    have frame : s.Alarmed ((s.setFolded i k false).forceClear (.mismatch i k)) :=
      State.forceClear_keeps s.keepsAlarms_alarmed (State.setFolded_keeps s.keepsAlarms_alarmed.toKeepsScreens rfl)
    have device : ∀ id, (∀ i k, id ≠ .mismatch i k) →
        ((s.setFolded i k false).forceClear (.mismatch i k)).source id = s.source id := fun id hid => by
      rw [State.source_forceClear_other (hid i k)]
      have keeps : KeepsScreens fun v => v.source id = s.source id :=
        ⟨fun _ _ _ hy hv => (hy.tracked.source_setScreen id).trans hv⟩
      exact State.setFolded_keeps keeps rfl
    have eq := frame.eq_of_device (device .trunk nofun) (device .senselink nofun)
    obtain ⟨x, l, forced, core⟩ := (s.setFolded i k false).forceClear_eq (.mismatch i k)
    have feed : ∀ p, ((s.setFolded i k false).forceClear (.mismatch i k)).feed i p =
        { (s.setFolded i k false).feed i p with
          mismatch := if p = k then x else ((s.setFolded i k false).feed i p).mismatch } := fun p => by
      rw [forced, State.feed_withAlarms, State.feed_setMismatch]
      by_cases same : p = k <;> simp [same]
    have out : (((s.setFolded i k false).forceClear (.mismatch i k)).screen i).out =
        ((s.setFolded i k false).screen i).out := by
      rw [forced, State.out_withAlarms, State.out_setSource]
    refine ⟨?_, fun q hq => ?_, fun q => ?_, ?_, ?_, fun j hj => ?_, eq⟩
    · rw [feed, State.feed_setFolded]; simp
    · rw [feed, State.feed_setFolded]; simp [hq]
    · rw [feed, out]; exact State.setFolded_rows ..
    · rw [feed]; simp only [if_true]; exact congrArg (·.state) core
    · have kept : ((s.setFolded i k false).feed i k).mismatch = (s.feed i k).mismatch := by rw [State.feed_setFolded]
      rw [feed, ← kept]
      simp only [if_true]
      exact congrArg (·.latched) core
    · rw [forced, State.screen_withAlarms, State.setSource, State.onFeed, State.screen_onScreen_other (h := hj),
        State.screen_setFolded_other s k false hj]
  · rw [State.exec_request ready (m := ⟨0x1B, tag, scr, []⟩) rfl (Nat.zero_le _) .protectReset rfl rfl]
    show Host.Outcome.next (s.takeProtectReset _) = _
    rw [State.takeProtectReset, if_neg started]
    dsimp only
    rw [screen]
    rfl

end
end Sys2Proof.Machine

/-! The booth lines (R165 to R171), the show locks (R84, R85) and the gains a request sets (R54 to R59). -/

namespace Sys2Proof.Machine

set_option Elab.async false

section
variable {s t : State} {i j : Fin 12} {n : Fin 24} {l : Line} {d : Bool}

/-! ### Fields of a request's body -/

theorem Half.toNat_lt_field (h : Half) : h.toNat < 256 ^ 2 := h.isLt

theorem Frame.toNat_lt_field (f : Frame) : f.toNat < 256 ^ 3 := f.isLt

theorem fieldAt_toBytes_end (a : List Byte) (p k n : Nat) (hp : a.length = p) (h : n < 256 ^ k) :
    fieldAt (a ++ toBytes k n) p k = n := by
  have field := fieldAt_toBytes_append a [] p k n hp h
  rwa [List.append_nil] at field

/-! ### Lines -/

@[simp] theorem Line.follow_pulse (l : Line) (d : Bool) : (l.follow d).pulse = l.pulse := by
  unfold Line.follow
  split_ifs <;> rfl

@[simp] theorem Line.follow_cueLevel (l : Line) (d : Bool) : (l.follow d).cueLevel = l.cueLevel := by
  unfold Line.follow
  split_ifs <;> rfl

/-- Without a stretch in progress a line that loses its demand is OFF at once (R167). -/
theorem Line.follow_off (h : l.stretchTimer = 0) : (l.follow false).level = false := by
  cases hl : l.level <;> simp [Line.follow, hl, h]

theorem State.refreshLine_eq (s : State) (n : Fin 24) :
    s.refreshLine n = s.setLine n ((s.line n).follow (s.demand (s.line n))) := rfl

/-- A line given a record and then its demand (R166). -/
theorem State.setLine_refreshLine (s : State) (n : Fin 24) (l : Line) :
    (s.setLine n l).refreshLine n = s.setLine n (l.follow (s.demand l)) := by
  have demand : (s.setLine n l).demand l = s.demand l := rfl
  rw [State.refreshLine_eq, State.line_setLine_same, State.setLine_setLine, demand]

theorem State.demand_of_cue (h : l.source = .cue) : s.demand l = l.cueLevel := by
  simp only [State.demand, h]

/-- A set or pulse of a CUE line, which its cue level drives (R166, R169). -/
theorem State.driveLine_of_cue (h : (s.line n).source = .cue) (on : Bool) (p : Nat) :
    s.driveLine n on p = s.setLine n (Line.follow { s.line n with cueLevel := on, pulse := p } on) := by
  have demand : s.demand ((s.line n).drive on p) = on := State.demand_of_cue h
  rw [State.driveLine, State.setLine_refreshLine, demand]
  rfl

/-- Where the blink count's step is due, it is made (R168). -/
theorem exec_blinkPhaseChange (due : (s.line n).blinkDue = true) :
    exec (.blinkPhaseChange n) s = .next (s.setLine n (s.line n).blinkStep) :=
  congrArg Host.Outcome.next (if_pos due)

theorem Line.blinkStep_of_on (on : l.level = true) (hb : l.blink ≠ .steady) :
    l.blinkStep = { l with blinkCount := if l.blinkCount = l.blink.last then 0 else l.blinkCount + 1 } := if_pos ⟨on, hb⟩

/-- Settles O37, timer by timer. -/
theorem lineTimers : Obligations.LineTimers := by
  intro s n
  refine ⟨fun due => ?_, fun due => ?_, fun on slow => ⟨fun at_ => ?_, fun at_ => ?_⟩,
    fun on fast => ⟨fun at_ => ?_, fun at_ => ?_⟩, fun alarm => ⟨fun slow _ => ?_, fun fast _ => ?_⟩⟩
  · show Host.Outcome.next (if (s.line n).stretchTimer = 1 then s.stretchStep n else s) = _
    simp only [State.stretchStep, due, Nat.one_ne_zero, if_true, if_false]
  · refine ⟨(s.setLine n { s.line n with pulse := 0, cueLevel := false }).refreshLine n, ?_, ?_⟩
    · show Host.Outcome.next (if (s.line n).pulse = 1 then s.pulseStep n else s) = _
      simp only [State.pulseStep, due, Nat.one_ne_zero, if_true, if_false]
    · rw [State.setLine_refreshLine, State.line_setLine_same]
      refine ⟨Line.follow_pulse .., Line.follow_cueLevel .., fun cue still => ?_,
        fun m hm => State.line_setLine_other s n m _ hm, rfl⟩
      have demand : s.demand { s.line n with pulse := 0, cueLevel := false } = false := State.demand_of_cue cue
      rw [demand]
      exact Line.follow_off still
  · rw [exec_blinkPhaseChange (by simp [Line.blinkDue, on, slow, at_]), Line.blinkStep_of_on on (by simp [slow])]
    simp [slow, at_, Blink.last]
  · rw [exec_blinkPhaseChange (by simp [Line.blinkDue, on, slow, at_]), Line.blinkStep_of_on on (by simp [slow])]
    simp [slow, at_, Blink.last]
  · rw [exec_blinkPhaseChange (by simp [Line.blinkDue, on, fast, at_]), Line.blinkStep_of_on on (by simp [fast])]
    simp [fast, at_, Blink.last]
  · rw [exec_blinkPhaseChange (by simp [Line.blinkDue, on, fast, at_]), Line.blinkStep_of_on on (by simp [fast])]
    simp [fast, at_, Blink.last]
  · rcases alarm with live | latched
    · simp only [Line.phase, live, slow, decide_eq_true_eq]; omega
    · simp only [Line.phase, latched, slow, decide_eq_true_eq]; omega
  · rcases alarm with live | latched
    · simp only [Line.phase, live, fast, decide_eq_true_eq]; omega
    · simp only [Line.phase, latched, fast, decide_eq_true_eq]; omega

/-- Settles O39: the line's new record, driven by the demand of its source. -/
theorem lineRequests : Obligations.LineRequests := by
  intro s tag scr ready
  refine ⟨fun a b c d e f g n l config => ?_, fun a b d i n on p running screen drive owner source => ?_⟩
  · rw [State.exec_request ready (m := ⟨0x15, tag, scr, [a, b, c, d, e, f, g]⟩) rfl (by simp) .lineConfig rfl rfl]
    show Host.Outcome.next (s.takeLineConfig _) = _
    rw [State.takeLineConfig, config]
    rfl
  · have started : s.device ≠ .starting := by rw [running]; nofun
    have takes : s.lineTakes n i = true := decide_eq_true ⟨owner, source⟩
    refine ⟨s.driveLine n on p, ?_, State.driveLine_of_cue source on p⟩
    rw [State.exec_request ready (m := ⟨0x16, tag, scr, [a, b] ++ toBytes 2 d.toNat⟩) rfl (by simp) .lineDrive rfl
      (by simp [RequestKind.admits])]
    show Host.Outcome.next (s.takeLineDrive _) = _
    rw [State.takeLineDrive, if_neg started]
    dsimp only
    rw [screen, drive]
    dsimp only
    rw [if_pos takes]
    rfl

/-! ### Show locks -/

/-- Settles O38, request by request. -/
theorem showLocks : Obligations.ShowLocks := by
  intro s tag scr i v
  refine ⟨rfl, fun ready running screen => ?_⟩
  have started : s.device ≠ .starting := by rw [running]; nofun
  have set : exec (.lockSet tag scr) s = .next (if s.commitTargets i then s.refuse ⟨0x1C, tag, scr, []⟩ .refusedState
      else (s.setShowLock i true).reply ⟨0x1C, tag, scr, []⟩ .done []) := by
    rw [State.exec_request ready (m := ⟨0x1C, tag, scr, []⟩) rfl (Nat.zero_le _) .lockSet rfl rfl]
    show Host.Outcome.next (s.takeLockSet _) = _
    rw [State.takeLockSet, if_neg started]
    dsimp only
    rw [screen]
  have clear : exec (.lockClear tag scr) s = .next (if s.lockInput then s.refuse ⟨0x1D, tag, scr, []⟩ .locked
      else (s.setShowLock i false).reply ⟨0x1D, tag, scr, []⟩ .done []) := by
    rw [State.exec_request ready (m := ⟨0x1D, tag, scr, []⟩) rfl (Nat.zero_le _) .lockClear rfl rfl]
    show Host.Outcome.next (s.takeLockClear _) = _
    rw [State.takeLockClear, if_neg started]
    dsimp only
    rw [screen]
  refine ⟨fun free => ?_, fun targeted => ?_, fun asserted => ?_, fun released => ?_⟩
  · rw [set, free]; rfl
  · rw [set, targeted]; rfl
  · rw [clear, asserted]; rfl
  · rw [clear, released]; rfl

/-! ### Gains -/

/-- The mute gain's target, its three grounds for 0 together (R59). -/
theorem muteTarget_eq (d : Device) (x : Screen) :
    muteTarget d x = if d = .starting ∨ x.muted = true ∨ x.phase = .fadingOut then 0 else 32768 := by
  unfold muteTarget
  by_cases hd : d = .starting
  · simp [hd]
  · by_cases hm : x.muted = true
    · simp [hd, hm]
    · by_cases hp : x.phase = .fadingOut
      · simp [hd, hp]
      · simp only [hd, hm, hp, if_false, or_self, Bool.false_eq_true]
        rfl

/-- The mute ramp is loaded only where its target changes (R59). -/
theorem Screen.recompute_eq (x : Screen) (d : Device) : x.recompute d = { x with
    mute := if muteTarget d x = x.mute.target then x.mute else ⟨x.mute.current, x.mute.current, muteTarget d x, 12⟩ } := by
  unfold Screen.recompute
  split <;> rfl

theorem State.recomputeMute_setScreen (s : State) (i : Fin 12) (x : Screen) :
    (s.setScreen i x).recomputeMute i = s.setScreen i (x.recompute s.device) := State.onScreen_setScreen ..

theorem State.setMuted_eq (s : State) (i : Fin 12) (v : Bool) :
    s.setMuted i v = s.setScreen i (Screen.recompute s.device { s.screen i with muted := v }) :=
  State.recomputeMute_setScreen ..

/-- Settles O53: the ramps loaded. -/
theorem gainRequests : Obligations.GainRequests := by
  intro s tag scr i ready running screen
  have started : s.device ≠ .starting := by rw [running]; nofun
  refine ⟨fun v => ?_, fun target d => ?_⟩
  · have flag : flagOf (fieldAt [if v then 1 else 0] 0 1) = some v := by cases v <;> rfl
    rw [State.exec_request ready (m := ⟨0x0C, tag, scr, [if v then 1 else 0]⟩) rfl (by simp) .screenMute rfl rfl]
    show Host.Outcome.next (s.takeScreenMute _) = _
    rw [State.takeScreenMute, if_neg started]
    dsimp only
    rw [screen, flag]
    dsimp only
    rw [State.setMuted_eq, Screen.recompute_eq, muteTarget_eq]
    simp only [started, false_or]
    rfl
  · have duration : fieldAt (toBytes 2 target.toNat ++ toBytes 2 d.toNat) 2 2 = d.toNat :=
      fieldAt_toBytes_end _ 2 2 _ rfl (Half.toNat_lt_field d)
    have value : fieldAt (toBytes 2 target.toNat ++ toBytes 2 d.toNat) 0 2 = target.toNat :=
      fieldAt_toBytes 2 _ _ (Half.toNat_lt_field target)
    rw [State.exec_request ready (m := ⟨0x0D, tag, scr, toBytes 2 target.toNat ++ toBytes 2 d.toNat⟩) rfl (by simp)
      .masterSet rfl (by simp [RequestKind.admits])]
    show Host.Outcome.next (s.takeMasterSet _) = _
    rw [State.takeMasterSet, if_neg started]
    dsimp only
    rw [screen, duration, value]
    rfl

end
end Sys2Proof.Machine

/-! Decode arithmetic (R39, R40), the effective matrix (R34 to R36), gains, filters, delay and meter (R44 to R49, R91, R92). -/

namespace Sys2Proof.Machine

set_option Elab.async false

section
variable {x : Int} {f : Format} {out : Fin 16 → Bool} {k : Fin 16} {t : Nat}

/-! ### Saturation -/

theorem Sample.saturate_of_range (lo : -8388608 ≤ x) (hi : x ≤ 8388607) : Sample.saturate x = ⟨x, false⟩ := by
  have kept : sat24 x = x := by unfold sat24; omega
  simp [Sample.saturate, kept]

theorem Sample.saturate_of_lt (h : x < -8388608) : Sample.saturate x = ⟨-8388608, true⟩ := by
  have low : sat24 x = -8388608 := by unfold sat24; omega
  have moved : (-8388608 : Int) ≠ x := by omega
  simp [Sample.saturate, low, moved]

theorem Sample.saturate_of_gt (h : 8388607 < x) : Sample.saturate x = ⟨8388607, true⟩ := by
  have high : sat24 x = 8388607 := by unfold sat24; omega
  have moved : (8388607 : Int) ≠ x := by omega
  simp [Sample.saturate, high, moved]

theorem Sample.saturate_value_le (x : Int) : (Sample.saturate x).value ≤ 8388607 ∧ -8388608 ≤ (Sample.saturate x).value := by
  show sat24 x ≤ 8388607 ∧ -8388608 ≤ sat24 x
  unfold sat24
  omega

/-- Settles O19: the three ranges of the rounded sum, each with the sample that saturation gives there. -/
theorem decodeRoundsAndClips : Obligations.DecodeRoundsAndClips := by
  unfold Obligations.DecodeRoundsAndClips
  intro row xs r y
  have hy : y = Sample.saturate ((r + 8192) / 16384) := rfl
  clear_value y r
  subst hy
  refine ⟨(Sample.saturate_value_le _).1, (Sample.saturate_value_le _).2, ?_, ?_, Sample.saturate_of_range,
    Sample.saturate_of_lt, Sample.saturate_of_gt⟩ <;>
  rcases lt_or_ge ((r + 8192) / 16384) (-8388608) with low | low
  · rw [Sample.saturate_of_lt low]
    simp only [Bool.true_eq_false, false_iff]
    omega
  · rcases lt_or_ge 8388607 ((r + 8192) / 16384) with high | high
    · rw [Sample.saturate_of_gt high]
      simp only [Bool.true_eq_false, false_iff]
      omega
    · rw [Sample.saturate_of_range low high]
      simp only [true_iff]
      omega
  · rw [Sample.saturate_of_lt low, if_pos (by omega)]
    exact fun _ => rfl
  · rcases lt_or_ge 8388607 ((r + 8192) / 16384) with high | high
    · rw [Sample.saturate_of_gt high, if_neg (by omega)]
      exact fun _ => rfl
    · rw [Sample.saturate_of_range low high]
      nofun

/-! ### The effective matrix -/

theorem foldsInto_iff (f : Format) (out : Fin 16 → Bool) (j k : Fin 16) :
    foldsInto f out j k = true ↔ out j = true ∧ f.partner j = some k ∧ out k = false := by
  simp [foldsInto, and_assoc]

theorem effective_of_in (hk : out k = false) (ht : t < f.trackCount) :
    effective f out k t = sat16 (f.base k.val t + addends f out k t) := by
  unfold effective
  rw [if_neg (by simp [hk]), if_pos ht]

theorem effective_eq_zero (h : out k = true ∨ f.trackCount ≤ t) : effective f out k t = 0 := by
  unfold effective
  split
  · rfl
  next hk => exact if_neg (by rcases h with h | h; exacts [absurd h hk, by omega])

theorem sat16_range (x : Int) : -32768 ≤ sat16 x ∧ sat16 x ≤ 32767 := by
  unfold sat16
  omega

theorem effective_range (f : Format) (out : Fin 16 → Bool) (k : Fin 16) (t : Nat) :
    -32768 ≤ effective f out k t ∧ effective f out k t ≤ 32767 := by
  by_cases h : out k = true ∨ f.trackCount ≤ t
  · rw [effective_eq_zero h]
    omega
  · simp only [not_or, Bool.not_eq_true, not_le] at h
    rw [effective_of_in h.1 h.2]
    exact sat16_range _

theorem addends_of_in (hk : out k = false) : addends f out k t =
    ((List.finRange 16).map fun j => if out j = true ∧ f.partner j = some k then
      (f.base j.val t * (min f.foldGain 32768 : Nat) + 16384) / 32768 else 0).sum := by
  unfold addends
  simp only [foldsInto_iff, hk, and_true]
  rfl

/-- A sum over the feeds in which at most one feed counts. -/
theorem sum_feeds_single (v : Fin 16 → Int) (j : Fin 16) (h : ∀ q, q ≠ j → v q = 0) :
    ((List.finRange 16).map v).sum = v j := by
  rw [← List.ofFn_eq_map, List.sum_ofFn]
  exact Fintype.sum_eq_single j h

theorem foldStateOf_none_iff : foldStateOf f out k = .none ↔ out k = false := by
  unfold foldStateOf
  cases out k <;> cases f.partner k <;> simp
  split <;> simp

theorem foldStateOf_folded_iff :
    foldStateOf f out k = .folded ↔ out k = true ∧ ∃ p, f.partner k = some p ∧ out p = false := by
  unfold foldStateOf
  cases out k <;> cases f.partner k <;> simp

/-- Settles O20: the addends of the in feed are the sum over the out feeds whose partner it is. -/
theorem effectiveMatrix : Obligations.EffectiveMatrix := by
  unfold Obligations.EffectiveMatrix
  intro f out k t
  refine ⟨(effective_range f out k t).1, (effective_range f out k t).2, effective_eq_zero, ?_, ?_, ?_, foldStateOf_none_iff,
    foldStateOf_folded_iff⟩
  · intro hk ht
    rw [effective_of_in hk ht, addends_of_in hk]
  · intro hk ht none_folds
    rw [effective_of_in hk ht, addends_of_in hk, sum_feeds_single _ 0, if_neg, add_zero]
    · exact fun h => none_folds 0 h.1 h.2
    · exact fun q _ => if_neg fun h => none_folds q h.1 h.2
  · intro j hk ht hj hp only
    rw [effective_of_in hk ht, addends_of_in hk, sum_feeds_single _ j, if_pos ⟨hj, hp⟩]
    exact fun q hq => if_neg fun h => only q hq h.1 h.2

/-! ### Gains, filters, delay and meter -/

theorem protectFactor_le (n : Nat) : protectFactor n ≤ 32768 := by
  unfold protectFactor
  split <;> omega

theorem roundGain_mul_le {a p : Nat} (ha : a ≤ 65535) (hp : p ≤ 32768) : roundGain (a * p) ≤ 65535 := by
  unfold roundGain
  have bound : a * p ≤ 65535 * 32768 := Nat.mul_le_mul ha hp
  omega

theorem blockGain_in (m u t p : Nat) : blockGain m u t p false =
    roundGain (min 65535 (roundGain (roundGain (m * u) * t)) * p) := by
  simp [blockGain]

theorem blockGain_out (m u t p : Nat) : blockGain m u t p true = 0 := by simp [blockGain]

theorem Sample.saturate_marked (x : Int) (c : Bool) :
    let y : Sample := ⟨(Sample.saturate x).value, c || (Sample.saturate x).clip⟩
    y.value ≤ 8388607 ∧ -8388608 ≤ y.value ∧ (-8388608 ≤ x → x ≤ 8388607 → y = ⟨x, c⟩) ∧
      (x < -8388608 → y = ⟨-8388608, true⟩) ∧ (8388607 < x → y = ⟨8388607, true⟩) := by
  refine ⟨(Sample.saturate_value_le x).1, (Sample.saturate_value_le x).2, fun lo hi => ?_, fun lo => ?_, fun hi => ?_⟩
  · simp [Sample.saturate_of_range lo hi]
  · simp [Sample.saturate_of_lt lo]
  · simp [Sample.saturate_of_gt hi]

theorem delayStage_full (d : Nat) (line : List Sample) (x : Sample) (hl : line.length = 2048) (hd : d < 2048) :
    (delayStage d line x).2.length = 2048 ∧ (delayStage d line x).2.head? = some x ∧
      (delayStage d line x).1 = if d = 0 then x else line.getD (d - 1) ⟨0, false⟩ := by
  have size : Config.delaySize = 2048 := rfl
  refine ⟨?_, ?_, ?_⟩
  · simp [delayStage, size, hl]
  · simp [delayStage, size]
  · cases d with
    | zero => simp [delayStage, size]
    | succ n =>
      have inside : n < 2047 := by omega
      simp [delayStage, size, List.getD_eq_getElem?_getD, List.getElem?_take, inside]

theorem square_le {v : Int} (lo : -8388608 ≤ v) (hi : v ≤ 8388607) : v / 256 * (v / 256) ≤ 2 ^ 30 := by
  have h1 : -32768 ≤ v / 256 := by omega
  have h2 : v / 256 ≤ 32767 := by omega
  nlinarith

theorem sum_le_length_mul {l : List Int} {b : Int} (h : ∀ v ∈ l, v ≤ b) : l.sum ≤ l.length * b := by
  have bound := List.sum_le_card_nsmul l b h
  rwa [nsmul_eq_mul] at bound

theorem blockEnergy_le {l : List Sample} (hl : l.length = 40)
    (h : ∀ y ∈ l, -8388608 ≤ y.value ∧ y.value ≤ 8388607) : blockEnergy l ≤ 2 ^ 30 := by
  have each : ∀ v ∈ l.map fun y : Sample => y.value / 256 * (y.value / 256), v ≤ (2 : Int) ^ 30 := by
    intro v hv
    obtain ⟨y, hy, rfl⟩ := List.mem_map.1 hv
    exact square_le (h y hy).1 (h y hy).2
  have total := sum_le_length_mul each
  rw [List.length_map, hl] at total
  unfold blockEnergy
  norm_num at total ⊢
  omega

theorem nextLevel_le {level energy : Nat} (hl : level ≤ 2 ^ 30) (he : energy ≤ 2 ^ 30) : nextLevel level energy ≤ 2 ^ 30 := by
  unfold nextLevel
  norm_num at hl he ⊢
  omega

theorem fileCode_newest (ring : List (Half × Nat)) (q : Half) (c : Nat) (hr : (ring.map Prod.fst).Nodup) :
    (fileCode ring q c).length ≤ 16 ∧ (fileCode ring q c).head? = some (q, c) ∧
      ((fileCode ring q c).map Prod.fst).Nodup := by
  have others : ((ring.filter fun e => decide (e.1 ≠ q)).map Prod.fst).Nodup := hr.sublist (List.filter_sublist.map _)
  have size : Config.ringSize = 16 := rfl
  refine ⟨?_, ?_, ?_⟩
  · simp [fileCode, size]
  · simp [fileCode, size]
  · refine List.Nodup.sublist ((List.take_sublist _ _).map _) (List.nodup_cons.2 ⟨?_, others⟩)
    simp

/-- Settles O22: each stage by its own bound. -/
theorem meterBounds : Obligations.MeterBounds := by
  unfold Obligations.MeterBounds
  refine ⟨fun m u t step => ⟨?_, blockGain_out ..⟩, blockGain_in, ?_, ?_, delayStage_full, fun l => blockEnergy_le,
    fun _ _ => nextLevel_le, fileCode_newest⟩
  · rw [blockGain_in]
    exact roundGain_mul_le (Nat.min_le_left _ _) (protectFactor_le step)
  · exact fun g d => Sample.saturate_marked _ _
  · intro c st x
    obtain ⟨hi, lo, kept, low, high⟩ := Sample.saturate_marked
      ((c.b0 * x.value + c.b1 * st.x1 + c.b2 * st.x2 - c.a1 * st.y1 - c.a2 * st.y2 + 2097152) / 4194304) x.clip
    exact ⟨hi, lo, kept, low, high, rfl⟩

end

end Sys2Proof.Machine

/-! What a grant of the store port can do (R74), and that the taking of a message adds one reply (R176, R178). -/

namespace Sys2Proof.Machine

set_option Elab.async false

section
variable {s t : State} {i j : Fin 12} {id : SlotId} {m : Message}

/-! ### The grant of the port -/

/-- All that a grant can be: nothing, or one of the five kinds of unit for a port that is free (R74). -/
theorem State.grant_cases (s : State) : s.grant = s ∨ s.port = none ∧
    (s.grant = { s with port := some ⟨.scan, 0⟩ } ∨
      s.scan = none ∧ ((∃ i, s.findScreen Screen.loadWaits = some i ∧
        s.grant = { s.onScreen i fun x => x.setStage .loading with port := some ⟨.load i, 0⟩ }) ∨
      s.findScreen Screen.loadWaits = none ∧ ((∃ f rest, s.refreshes = f :: rest ∧
        s.grant = { s with port := some ⟨.refresh f, 0⟩, refreshes := rest }) ∨
      s.refreshes = [] ∧ ((∃ w, s.engineWork = some w ∧ s.grant = s.grantEngine w) ∨
      s.engineWork = none ∧ s.commit.state = .waiting ∧ s.grant = s.grantCommit)))) := by
  unfold State.grant
  split
  · exact .inl rfl
  next port =>
    have free : s.port = none := by simpa using port
    split
    · exact .inr ⟨free, .inl rfl⟩
    next scan =>
      have quiet : s.scan = none := by simpa using scan
      split
      · exact .inr ⟨free, .inr ⟨quiet, .inl ⟨_, ‹_›, rfl⟩⟩⟩
      next loads =>
        split
        · exact .inr ⟨free, .inr ⟨quiet, .inr ⟨loads, .inl ⟨_, _, ‹_›, rfl⟩⟩⟩⟩
        next refreshes =>
          split
          · exact .inr ⟨free, .inr ⟨quiet, .inr ⟨loads, .inr ⟨refreshes, .inl ⟨_, ‹_›, rfl⟩⟩⟩⟩⟩
          · split
            · exact .inr ⟨free, .inr ⟨quiet, .inr ⟨loads, .inr ⟨refreshes, .inr ⟨‹_›, ‹_›, rfl⟩⟩⟩⟩⟩
            · exact .inl rfl

theorem State.grant_of_port (h : s.port ≠ none) : s.grant = s :=
  (State.grant_cases s).resolve_right fun free => h free.1

/-- A free port with nothing before the preset loads goes to the first of them (R74). -/
theorem State.grant_load (port : s.port = none) (scan : s.scan = none) (loads : s.findScreen Screen.loadWaits = some i) :
    s.grant = { s.onScreen i fun x => x.setStage .loading with port := some ⟨.load i, 0⟩ } := by
  unfold State.grant
  rw [port, scan, loads]
  rfl

theorem State.grant_scan (port : s.port = none) (scan : s.scan ≠ none) : s.grant = { s with port := some ⟨.scan, 0⟩ } := by
  unfold State.grant
  rw [port, if_neg (by simp), if_pos (Option.isSome_iff_ne_none.2 scan)]

theorem State.grant_engine {w : EngineWork} (port : s.port = none) (scan : s.scan = none)
    (loads : s.findScreen Screen.loadWaits = none) (refreshes : s.refreshes = []) (work : s.engineWork = some w) :
    s.grant = s.grantEngine w := by
  unfold State.grant
  rw [port, scan, loads, refreshes, work]
  rfl

theorem State.grant_commit_of_waiting (port : s.port = none) (scan : s.scan = none)
    (loads : s.findScreen Screen.loadWaits = none) (refreshes : s.refreshes = []) (work : s.engineWork = none)
    (waiting : s.commit.state = .waiting) : s.grant = s.grantCommit := by
  unfold State.grant
  rw [port, scan, loads, refreshes, work, waiting]
  rfl

/-- What a grant may change: the screens, the slots, the port, the refresh queue and the commit record. -/
def State.Granted (s t : State) : Prop :=
  { t with screens := s.screens, slots := s.slots, port := s.port, refreshes := s.refreshes, commit := s.commit } = s

theorem State.Granted.eq (h : s.Granted t) : t = { s with
    screens := t.screens, slots := t.slots, port := t.port, refreshes := t.refreshes, commit := t.commit } := by
  unfold State.Granted at h
  exact congrArg (fun v : State => { v with
    screens := t.screens, slots := t.slots, port := t.port, refreshes := t.refreshes, commit := t.commit }) h

theorem State.keepsGrant_granted (s : State) : KeepsGrant s.Granted where
  screen := fun _ _ _ _ h => h
  slots := fun _ _ h => h
  refreshes := fun _ _ h => h
  portTo := fun _ _ _ _ h => h
  portFree := fun _ h => h
  portAge := fun _ h => h
  commitUnit := fun _ _ _ _ _ h => h

theorem State.granted_grant (s : State) : s.Granted s.grant := State.grant_keeps s.keepsGrant_granted rfl

theorem State.grant_eq (s : State) : s.grant = { s with
    screens := s.grant.screens, slots := s.grant.slots, port := s.grant.port, refreshes := s.grant.refreshes
    commit := s.grant.commit } := s.granted_grant.eq

theorem State.screen_withPort (s : State) (p : Option PortUnit) (j : Fin 12) :
    State.screen { s with port := p } j = s.screen j := rfl

/-- A grant changes of a screen its operation's stage alone. -/
theorem State.screen_grant (s : State) (j : Fin 12) :
    s.grant.screen j = { s.screen j with running := (s.grant.screen j).running } := by
  have same {t : State} (h : t.screens = s.screens) : t.screen j = { s.screen j with running := (t.screen j).running } := by
    show t.screens[j] = { s.screens[j] with running := t.screens[j].running }
    rw [h]
  rcases s.grant_cases with h | ⟨_, h | ⟨_, ⟨i, _, h⟩ | ⟨_, ⟨f, rest, _, h⟩ | ⟨_, ⟨w, _, h⟩ | ⟨_, _, h⟩⟩⟩⟩⟩ <;> rw [h]
  · exact same rfl
  · rw [State.screen_withPort, State.screen_onScreen]
    split
    next e => rw [e]; rfl
    · rfl
  · exact same rfl
  · unfold State.grantEngine
    dsimp only
    split <;> exact same rfl
  · unfold State.grantCommit
    dsimp only
    split
    · split <;> exact same rfl
    · exact same rfl

theorem State.slot_setMark_other {n : Mark} {a : SlotId} (h : a ≠ id) : (s.setMark id n).slot a = s.slot a :=
  State.slot_onSlot_other _ _ _ _ h

theorem State.slot_setMark_fields (s : State) (id : SlotId) (n : Mark) (a : SlotId) :
    (s.setMark id n).slot a = { s.slot a with mark := ((s.setMark id n).slot a).mark } := by
  by_cases h : a = id
  · subst h
    unfold State.setMark
    rw [State.slot_onSlot_same]
  · rw [State.slot_setMark_other h]

/-- A grant changes of a slot its mark alone: that of an erase whose first page is granted, and that of the commit's
target. -/
theorem State.slot_grant (s : State) (a : SlotId) : s.grant.slot a = { s.slot a with mark := (s.grant.slot a).mark } ∧
    (s.engineWork ≠ some (.erase a 0) → s.commit.state ≠ .waiting ∨ s.commit.target ≠ a → s.grant.slot a = s.slot a) := by
  have same {t : State} (h : t.slots = s.slots) : t.slot a = { s.slot a with mark := (t.slot a).mark } ∧
      (s.engineWork ≠ some (.erase a 0) → s.commit.state ≠ .waiting ∨ s.commit.target ≠ a → t.slot a = s.slot a) := by
    have e : t.slot a = s.slot a := congrArg (fun v : Vector Slot 63 => v[a.index]) h
    rw [e]
    exact ⟨rfl, fun _ _ => rfl⟩
  rcases s.grant_cases with h | ⟨_, h | ⟨_, ⟨i, _, h⟩ | ⟨_, ⟨f, rest, _, h⟩ | ⟨_, ⟨w, hw, h⟩ | ⟨_, waits, h⟩⟩⟩⟩⟩ <;> rw [h]
  · exact same rfl
  · exact same rfl
  · exact same rfl
  · exact same rfl
  · unfold State.grantEngine
    dsimp only
    split
    next id =>
      refine ⟨State.slot_setMark_fields .., fun other _ => State.slot_setMark_other ?_⟩
      rintro rfl
      exact other hw
    · exact same rfl
  · unfold State.grantCommit
    dsimp only
    split
    · split
      · refine ⟨State.slot_setMark_fields .., fun _ other => State.slot_setMark_other ?_⟩
        exact Ne.symm (other.resolve_left fun h => h waits)
      · exact same rfl
    · exact same rfl

/-- A grant changes of the commit record its state alone, and never to or from IDLE. -/
theorem State.commit_grant (s : State) : s.grant.commit = { s.commit with state := s.grant.commit.state } ∧
    (s.grant.commit.state = .idle ↔ s.commit.state = .idle) := by
  have same {t : State} (h : t.commit = s.commit) :
      t.commit = { s.commit with state := t.commit.state } ∧ (t.commit.state = .idle ↔ s.commit.state = .idle) := by
    rw [h]
    exact ⟨rfl, .rfl⟩
  rcases s.grant_cases with h | ⟨_, h | ⟨_, ⟨i, _, h⟩ | ⟨_, ⟨f, rest, _, h⟩ | ⟨_, ⟨w, _, h⟩ | ⟨_, waits, h⟩⟩⟩⟩⟩ <;> rw [h]
  · exact same rfl
  · exact same rfl
  · exact same rfl
  · exact same rfl
  · unfold State.grantEngine
    dsimp only
    split <;> exact same rfl
  · unfold State.grantCommit
    dsimp only
    split
    · split <;> exact ⟨rfl, by rw [waits]; exact ⟨nofun, nofun⟩⟩
    · exact ⟨rfl, by rw [waits]; exact ⟨nofun, nofun⟩⟩

/-! ### A message taken adds one reply -/

/-- The reply queue, the hold buffer and the slot array as they were. -/
def State.LaneSame (s t : State) : Prop := t.replies = s.replies ∧ t.holdBuf = s.holdBuf ∧ t.array = s.array

/-- One reply more, with the hold buffer and the slot array as they were. -/
def State.Adds (s t : State) : Prop := ∃ r, t.replies = s.replies ++ [r] ∧ t.holdBuf = s.holdBuf ∧ t.array = s.array

theorem State.keepsCues_laneSame (s : State) : KeepsCues s.LaneSame := by
  refine' { source := fun s id x _ hs => by cases id <;> exact hs, defer := fun s id n _ hs => by cases id <;> exact hs, .. }
  all_goals intros; assumption

theorem State.keepsGrant_adds (s : State) : KeepsGrant s.Adds := by
  refine' { .. }
  all_goals intros; assumption

theorem State.keepsSlots_laneSame (s : State) : KeepsSlots s.LaneSame := by
  refine' { .. }
  all_goals intros; assumption

theorem State.LaneSame.answer (h : s.LaneSame t) (m : Message) (v : Verdict) (b : Bool) (l : List Byte) :
    s.Adds (t.answer m v b l) := by
  obtain ⟨replies, buffer, array⟩ := h
  exact ⟨⟨m.kind, m.tag, m.screen, v, b, l, true⟩, congrArg (· ++ _) replies, buffer, array⟩

theorem State.LaneSame.reply (h : s.LaneSame t) (m : Message) (v : Verdict) (l : List Byte) : s.Adds (t.reply m v l) :=
  h.answer m v false l

theorem State.adds_refuse (s : State) (m : Message) (v : Verdict) : s.Adds (s.refuse m v) :=
  State.LaneSame.answer ⟨rfl, rfl, rfl⟩ m v false []

theorem State.LaneSame.hold (h : s.LaneSame t) (m : Message) (w : EngineWork) : s.Adds (t.hold m w) := by
  obtain ⟨replies, buffer, array⟩ := h
  exact State.grant_keeps s.keepsGrant_adds
    ⟨⟨m.kind, m.tag, m.screen, .done, false, [], false⟩, congrArg (· ++ _) replies, buffer, array⟩

theorem State.laneSame_endCommit (s : State) (r : CommitResult) : s.LaneSame (s.endCommit r) :=
  State.commitSlot_keeps s.keepsSlots_laneSame (s := s) (r := r) ⟨rfl, rfl, rfl⟩

theorem State.laneSame_beginErase (s : State) (id : SlotId) : s.LaneSame (s.beginErase id) := by
  have slot : s.LaneSame ((s.clearSlot id .empty).dropCache id) :=
    State.dropCache_keeps s.keepsSlots_laneSame (s := s.clearSlot id .empty) ⟨rfl, rfl, rfl⟩
  unfold State.beginErase
  generalize (s.clearSlot id .empty).dropCache id = u at slot
  cases id <;> exact slot

theorem State.laneSame_restart (s : State) (i : Fin 12) : s.LaneSame (s.restart i) := by
  have h := s.keepsCues_laneSame
  have hc := h.toKeepsScreens
  unfold State.restart
  exact State.linesOff_keeps h.toKeepsLines (State.restartSources_keeps h.toKeepsAlarms
    (State.emptyFoldSet_keeps hc (State.zeroProtect_keeps hc (State.takeOverride_keeps hc (State.setMuted_keeps hc
      (State.loadMaster_keeps hc (State.placeOp_keeps h.toKeepsGrant ⟨rfl, rfl, rfl⟩)))))))

theorem State.laneSame_self (s : State) : s.LaneSame s := ⟨rfl, rfl, rfl⟩

theorem State.takeStatus_adds (s : State) (m : Message) : s.Adds (s.takeStatus m) := by
  exact State.LaneSame.reply ⟨rfl, rfl, rfl⟩ ..

theorem State.takeSlotInfo_adds (s : State) (m : Message) : s.Adds (s.takeSlotInfo m) := by
  unfold State.takeSlotInfo
  split
  · exact s.adds_refuse m _
  · exact s.laneSame_self.reply ..

theorem State.takeStageClear_adds (s : State) (m : Message) : s.Adds (s.takeStageClear m) := by
  unfold State.takeStageClear
  repeat' split
  any_goals with_reducible exact s.adds_refuse m _
  exact State.LaneSame.reply ⟨rfl, rfl, rfl⟩ ..

theorem State.takeStageWrite_adds (s : State) (m : Message) : s.Adds (s.takeStageWrite m) := by
  unfold State.takeStageWrite
  dsimp only
  repeat' split
  any_goals with_reducible exact s.adds_refuse m _
  exact State.LaneSame.reply ⟨rfl, rfl, rfl⟩ ..

theorem State.takeStageRead_adds (s : State) (m : Message) : s.Adds (s.takeStageRead m) := by
  unfold State.takeStageRead
  dsimp only
  repeat' split
  any_goals with_reducible exact s.adds_refuse m _
  exact s.laneSame_self.reply ..

theorem State.takeStageFetch_adds (s : State) (m : Message) : s.Adds (s.takeStageFetch m) := by
  unfold State.takeStageFetch
  dsimp only
  repeat' split
  any_goals with_reducible exact s.adds_refuse m _
  exact s.laneSame_self.hold ..

theorem State.takeCommit_adds (s : State) (m : Message) : s.Adds (s.takeCommit m) := by
  unfold State.takeCommit
  repeat' split
  any_goals with_reducible exact s.adds_refuse m _
  exact State.grant_keeps s.keepsGrant_adds (State.LaneSame.reply ⟨rfl, rfl, rfl⟩ ..)

theorem State.takeCommitAbandon_adds (s : State) (m : Message) : s.Adds (s.takeCommitAbandon m) := by
  unfold State.takeCommitAbandon
  repeat' split
  any_goals with_reducible exact s.adds_refuse m _
  · exact (s.laneSame_endCommit _).reply ..
  · exact State.LaneSame.reply ⟨rfl, rfl, rfl⟩ ..

theorem State.takeSlotErase_adds (s : State) (m : Message) : s.Adds (s.takeSlotErase m) := by
  unfold State.takeSlotErase
  repeat' split
  any_goals with_reducible exact s.adds_refuse m _
  · exact s.laneSame_self.reply ..
  · exact (s.laneSame_beginErase _).hold ..

theorem State.takePresetSelect_adds (s : State) (m : Message) : s.Adds (s.takePresetSelect m) := by
  unfold State.takePresetSelect
  dsimp only
  repeat' split
  any_goals with_reducible exact s.adds_refuse m _
  exact State.LaneSame.reply (State.placeOp_keeps s.keepsCues_laneSame.toKeepsGrant s.laneSame_self) ..

theorem State.takeFormatOverride_adds (s : State) (m : Message) : s.Adds (s.takeFormatOverride m) := by
  unfold State.takeFormatOverride
  repeat' split
  any_goals with_reducible exact s.adds_refuse m _
  all_goals exact State.LaneSame.reply (State.takeOverride_keeps s.keepsCues_laneSame.toKeepsScreens s.laneSame_self) ..

theorem State.takeScreenMute_adds (s : State) (m : Message) : s.Adds (s.takeScreenMute m) := by
  unfold State.takeScreenMute
  repeat' split
  any_goals with_reducible exact s.adds_refuse m _
  exact State.LaneSame.reply (State.setMuted_keeps s.keepsCues_laneSame.toKeepsScreens s.laneSame_self) ..

theorem State.takeMasterSet_adds (s : State) (m : Message) : s.Adds (s.takeMasterSet m) := by
  unfold State.takeMasterSet
  repeat' split
  any_goals with_reducible exact s.adds_refuse m _
  exact State.LaneSame.reply (State.loadMaster_keeps s.keepsCues_laneSame.toKeepsScreens s.laneSame_self) ..

theorem State.takeCueInsert_adds (s : State) (m : Message) : s.Adds (s.takeCueInsert m) := by
  unfold State.takeCueInsert
  dsimp only
  repeat' split
  any_goals with_reducible exact s.adds_refuse m _
  all_goals exact State.LaneSame.answer ⟨rfl, rfl, rfl⟩ ..

theorem State.takeCueDelete_adds (s : State) (m : Message) : s.Adds (s.takeCueDelete m) := by
  unfold State.takeCueDelete
  dsimp only
  repeat' split
  any_goals with_reducible exact s.adds_refuse m _
  all_goals exact State.LaneSame.answer ⟨rfl, rfl, rfl⟩ ..

theorem State.takeCueClear_adds (s : State) (m : Message) : s.Adds (s.takeCueClear m) := by
  unfold State.takeCueClear
  split
  · exact s.adds_refuse m _
  · exact State.LaneSame.answer ⟨rfl, rfl, rfl⟩ ..

theorem State.takeCueTagRange_adds (s : State) (m : Message) : s.Adds (s.takeCueTagRange m) := by
  unfold State.takeCueTagRange
  dsimp only
  repeat' split
  any_goals with_reducible exact s.adds_refuse m _
  exact State.LaneSame.reply ⟨rfl, rfl, rfl⟩ ..

theorem State.takeCueUntag_adds (s : State) (m : Message) : s.Adds (s.takeCueUntag m) := by
  unfold State.takeCueUntag
  repeat' split
  any_goals with_reducible exact s.adds_refuse m _
  exact State.LaneSame.reply ⟨rfl, rfl, rfl⟩ ..

theorem State.takeCueDeleteTagged_adds (s : State) (m : Message) : s.Adds (s.takeCueDeleteTagged m) := by
  unfold State.takeCueDeleteTagged
  split
  · exact s.adds_refuse m _
  · exact State.LaneSame.reply ⟨rfl, rfl, rfl⟩ ..

theorem State.takeCueListRead_adds (s : State) (m : Message) : s.Adds (s.takeCueListRead m) := by
  unfold State.takeCueListRead
  repeat' split
  any_goals with_reducible exact s.adds_refuse m _
  exact s.laneSame_self.reply ..

theorem State.takeLineConfig_adds (s : State) (m : Message) : s.Adds (s.takeLineConfig m) := by
  unfold State.takeLineConfig
  split
  · exact s.adds_refuse m _
  · exact State.LaneSame.reply (State.configureLine_keeps s.keepsCues_laneSame.toKeepsLines s.laneSame_self) ..

theorem State.takeLineDrive_adds (s : State) (m : Message) : s.Adds (s.takeLineDrive m) := by
  unfold State.takeLineDrive
  dsimp only
  repeat' split
  any_goals with_reducible exact s.adds_refuse m _
  exact State.LaneSame.reply (State.driveLine_keeps s.keepsCues_laneSame.toKeepsLines s.laneSame_self) ..

theorem State.takeMeterRead_adds (s : State) (m : Message) : s.Adds (s.takeMeterRead m) := by
  unfold State.takeMeterRead
  split
  · exact s.adds_refuse m _
  · exact State.LaneSame.reply (State.mapFeeds_keeps s.keepsCues_laneSame.toKeepsScreens s.laneSame_self) ..

theorem State.takeAlarmRead_adds (s : State) (m : Message) : s.Adds (s.takeAlarmRead m) := by
  unfold State.takeAlarmRead
  repeat' split
  any_goals with_reducible exact s.adds_refuse m _
  all_goals exact s.laneSame_self.reply ..

theorem State.takeAlarmAcknowledge_adds (s : State) (m : Message) : s.Adds (s.takeAlarmAcknowledge m) := by
  unfold State.takeAlarmAcknowledge
  repeat' split
  any_goals with_reducible exact s.adds_refuse m _
  · exact State.LaneSame.reply (State.acknowledgeDevice_keeps s.keepsCues_laneSame.toKeepsAlarms s.laneSame_self) ..
  · exact State.LaneSame.reply (State.acknowledgeScreen_keeps s.keepsCues_laneSame.toKeepsAlarms s.laneSame_self) ..

theorem State.takeFeedRestore_adds (s : State) (m : Message) : s.Adds (s.takeFeedRestore m) := by
  unfold State.takeFeedRestore
  repeat' split
  any_goals with_reducible exact s.adds_refuse m _
  exact State.LaneSame.reply (State.forceClear_keeps s.keepsCues_laneSame.toKeepsAlarms (State.setFolded_keeps s.keepsCues_laneSame.toKeepsScreens s.laneSame_self)) ..

theorem State.takeProtectReset_adds (s : State) (m : Message) : s.Adds (s.takeProtectReset m) := by
  unfold State.takeProtectReset
  repeat' split
  any_goals with_reducible exact s.adds_refuse m _
  exact State.LaneSame.reply (State.zeroProtect_keeps s.keepsCues_laneSame.toKeepsScreens s.laneSame_self) ..

theorem State.takeLockSet_adds (s : State) (m : Message) : s.Adds (s.takeLockSet m) := by
  unfold State.takeLockSet
  repeat' split
  any_goals with_reducible exact s.adds_refuse m _
  exact State.LaneSame.reply ⟨rfl, rfl, rfl⟩ ..

theorem State.takeLockClear_adds (s : State) (m : Message) : s.Adds (s.takeLockClear m) := by
  unfold State.takeLockClear
  repeat' split
  any_goals with_reducible exact s.adds_refuse m _
  exact State.LaneSame.reply ⟨rfl, rfl, rfl⟩ ..

theorem State.takeScreenRestart_adds (s : State) (m : Message) : s.Adds (s.takeScreenRestart m) := by
  unfold State.takeScreenRestart
  repeat' split
  any_goals with_reducible exact s.adds_refuse m _
  exact (s.laneSame_restart _).reply ..

/-- Every request adds the one reply that answers it. -/
theorem State.carryOut_adds (s : State) (k : RequestKind) (m : Message) : s.Adds (s.carryOut k m) := by
  cases k with
  | status => exact s.takeStatus_adds m
  | slotInfo => exact s.takeSlotInfo_adds m
  | stageClear => exact s.takeStageClear_adds m
  | stageWrite => exact s.takeStageWrite_adds m
  | stageRead => exact s.takeStageRead_adds m
  | stageFetch => exact s.takeStageFetch_adds m
  | commit => exact s.takeCommit_adds m
  | commitAbandon => exact s.takeCommitAbandon_adds m
  | slotErase => exact s.takeSlotErase_adds m
  | presetSelect => exact s.takePresetSelect_adds m
  | formatOverride => exact s.takeFormatOverride_adds m
  | screenMute => exact s.takeScreenMute_adds m
  | masterSet => exact s.takeMasterSet_adds m
  | cueInsert => exact s.takeCueInsert_adds m
  | cueDelete => exact s.takeCueDelete_adds m
  | cueClear => exact s.takeCueClear_adds m
  | cueTagRange => exact s.takeCueTagRange_adds m
  | cueUntag => exact s.takeCueUntag_adds m
  | cueDeleteTagged => exact s.takeCueDeleteTagged_adds m
  | cueListRead => exact s.takeCueListRead_adds m
  | lineConfig => exact s.takeLineConfig_adds m
  | lineDrive => exact s.takeLineDrive_adds m
  | meterRead => exact s.takeMeterRead_adds m
  | alarmRead => exact s.takeAlarmRead_adds m
  | alarmAcknowledge => exact s.takeAlarmAcknowledge_adds m
  | feedRestore => exact s.takeFeedRestore_adds m
  | protectReset => exact s.takeProtectReset_adds m
  | lockSet => exact s.takeLockSet_adds m
  | lockClear => exact s.takeLockClear_adds m
  | screenRestart => exact s.takeScreenRestart_adds m

theorem State.takeMessage_adds (s : State) (m : Message) : s.Adds (s.takeMessage m) := by
  unfold State.takeMessage
  split
  · exact s.adds_refuse m _
  · split
    · exact s.carryOut_adds _ m
    · exact s.adds_refuse m _

/-! ### The hold buffer -/

theorem State.takeHoldBuffer_some (buffer : s.holdBuf = some m) (free : s.held = none) (room : s.replies.length < 8) :
    s.takeHoldBuffer = State.takeMessage { s with holdBuf := none } m := by
  unfold State.takeHoldBuffer
  rw [buffer]
  exact if_pos ⟨by rw [free]; rfl, room⟩

theorem State.takeHoldBuffer_full (full : 8 ≤ s.replies.length) : s.takeHoldBuffer = s := by
  unfold State.takeHoldBuffer
  split
  · exact if_neg fun h => absurd h.2 (Nat.not_lt.2 full)
  · rfl

/-- The held message, where it may be taken, leaves the buffer and adds its reply. -/
theorem State.takeHoldBuffer_adds (buffer : s.holdBuf ≠ none) (free : s.held = none) (room : s.replies.length < 8) :
    ∃ r, s.takeHoldBuffer.replies = s.replies ++ [r] ∧ s.takeHoldBuffer.holdBuf = none ∧
      s.takeHoldBuffer.array = s.array := by
  obtain ⟨m, hm⟩ := Option.ne_none_iff_exists'.1 buffer
  rw [State.takeHoldBuffer_some hm free room]
  exact State.takeMessage_adds _ m

theorem State.takeHoldBuffer_array (s : State) : s.takeHoldBuffer.array = s.array := by
  unfold State.takeHoldBuffer
  split
  · split
    · obtain ⟨r, -, -, array⟩ := State.takeMessage_adds { s with holdBuf := none } ‹Message›
      exact array
    · rfl
  · rfl

end

end Sys2Proof.Machine

/-! The control lane: reassembly (R173 to R175), placement (R176), the return lane's arbiter (R182), the refusals of R84 and
R86, and the requests that report or touch the staging buffer (R64, R179 to R181). -/

namespace Sys2Proof.Machine

set_option Elab.async false

section
variable {s : State} {i : Fin 12} {m : Message}

/-! ### Placement -/

/-- Settles O42: the hold buffer's message taken adds its one reply. -/
theorem holdBufferTaken : Obligations.HoldBufferTaken := by
  intro s m buffer
  refine ⟨fun free room => ?_, fun kept => ?_⟩
  · have taken : exec .holdBufferTake s = .next (State.takeMessage { s with holdBuf := none } m) :=
      congrArg Host.Outcome.next (State.takeHoldBuffer_some buffer free room)
    obtain ⟨r, replies, gone, -⟩ := State.takeMessage_adds { s with holdBuf := none } m
    refine ⟨taken, _, taken, gone, ?_⟩
    rw [replies, List.length_append]
    rfl
  · rcases kept with held | full
    · exact congrArg Host.Outcome.next (State.takeHoldBuffer_held s held)
    · exact congrArg Host.Outcome.next (State.takeHoldBuffer_full full)

/-- A message that cannot be taken, with what the hold buffer makes of it (R176). -/
theorem State.submit_busy (busy : s.held ≠ none ∨ 8 ≤ s.replies.length) (short : m.body.length ≤ 240) :
    s.submit m = if s.holdBuf.isNone then { s with holdBuf := some m } else { s with overrun := true } := by
  have waits : s.takeHoldBuffer = s := busy.elim (State.takeHoldBuffer_held s) State.takeHoldBuffer_full
  have refused : ¬ s.canTake = true := by
    rw [State.canTake_iff]
    rintro ⟨free, -, room⟩
    exact busy.elim (absurd free) fun full => absurd room (Nat.not_lt.2 full)
  unfold State.submit State.place
  rw [if_neg (Nat.not_lt.2 short), waits]
  exact if_neg refused

/-- Settles O43: placement, and the two refusals that come before a request's own rule. -/
theorem messagesPlaced : Obligations.MessagesPlaced := by
  intro s m short
  refine ⟨fun busy => ⟨fun empty => ?_, fun occupied => ?_⟩, fun ready unknown => ?_, fun k ready known wrong => ?_⟩
  · rw [State.submit_busy busy short, empty]
    rfl
  · rw [State.submit_busy busy short, if_neg (by simpa using occupied)]
  · show Host.Outcome.next (s.submit m) = _
    rw [State.submit_ready s m ready short, State.takeMessage, unknown]
    rfl
  · rw [State.submit_ready s m ready short, State.takeMessage, known]
    exact if_neg (by rw [wrong]; nofun)

/-! ### Refusals of STARTING and of a show lock -/

theorem State.editScreen_starting (starting : s.device = .starting) (m : Message) : s.editScreen m = .error .starting :=
  if_pos starting

theorem State.editScreen_locked (running : s.device = .running) (screen : screenOf m.screen = some i)
    (locked : (s.screen i).showLock = true) : s.editScreen m = .error .locked := by
  unfold State.editScreen
  rw [running, screen, if_neg nofun]
  exact if_pos locked

/-- A request of the device in STARTING, but for the five that are served (R86). -/
theorem State.carryOut_starting {k : RequestKind} (starting : s.device = .starting) (refused : k.servedInStarting = false)
    (m : Message) : s.carryOut k m = s.refuse m .starting := by
  have edit := State.editScreen_starting starting m
  cases k
  case status | slotInfo | meterRead | alarmRead | lineConfig => cases refused
  case cueInsert => show s.takeCueInsert m = _; rw [State.takeCueInsert, edit]
  case cueDelete => show s.takeCueDelete m = _; rw [State.takeCueDelete, edit]
  case cueClear => show s.takeCueClear m = _; rw [State.takeCueClear, edit]
  case cueTagRange => show s.takeCueTagRange m = _; rw [State.takeCueTagRange, edit]
  case cueUntag => show s.takeCueUntag m = _; rw [State.takeCueUntag, edit]
  case cueDeleteTagged => show s.takeCueDeleteTagged m = _; rw [State.takeCueDeleteTagged, edit]
  all_goals exact if_pos starting

/-- An edit of the cue list of a screen whose show lock is set (R84). -/
theorem State.carryOut_edit_locked {k : RequestKind} (edit : s.editScreen m = .error .locked)
    (hk : k ∈ [RequestKind.cueInsert, .cueDelete, .cueClear, .cueTagRange, .cueUntag, .cueDeleteTagged]) :
    s.carryOut k m = s.refuse m .locked := by
  fin_cases hk
  · show s.takeCueInsert m = _; rw [State.takeCueInsert, edit]
  · show s.takeCueDelete m = _; rw [State.takeCueDelete, edit]
  · show s.takeCueClear m = _; rw [State.takeCueClear, edit]
  · show s.takeCueTagRange m = _; rw [State.takeCueTagRange, edit]
  · show s.takeCueUntag m = _; rw [State.takeCueUntag, edit]
  · show s.takeCueDeleteTagged m = _; rw [State.takeCueDeleteTagged, edit]

/-- Settles O44: both refusals come before any effect. -/
theorem requestsRefused : Obligations.RequestsRefused := by
  intro s m k known admitted
  rw [State.takeMessage_of s m k known admitted]
  refine ⟨fun starting refused => State.carryOut_starting starting refused m, fun i running screen locked h => ?_⟩
  have started : s.device ≠ .starting := by rw [running]; nofun
  rcases h with hk | ⟨rfl, place⟩ | ⟨rfl, format⟩ | ⟨rfl, n, slot⟩ | ⟨rfl, ⟨n, slot⟩, idle, room⟩
  · by_cases hr : k = .screenRestart
    · subst hr
      show s.takeScreenRestart m = _
      rw [State.takeScreenRestart, if_neg started, screen]
      exact if_pos locked
    · refine State.carryOut_edit_locked (State.editScreen_locked running screen locked) ?_
      simpa [hr] using hk
  · show s.takePresetSelect m = _
    rw [State.takePresetSelect, if_neg started, screen]
    exact (dif_pos place).trans (if_pos locked)
  · show s.takeFormatOverride m = _
    obtain ⟨v, hv⟩ := Option.isSome_iff_exists.1 format
    rw [State.takeFormatOverride, if_neg started, screen, hv]
    exact if_pos locked
  · show s.takeSlotErase m = _
    rw [State.takeSlotErase, if_neg started, slot]
    exact if_pos locked
  · show s.takeCommit m = _
    rw [State.takeCommit, if_neg started, slot]
    exact (if_neg (not_not_intro ⟨idle, room⟩)).trans (if_pos locked)

/-! ### Reports -/

theorem length_flatMap_const {α β : Type} (l : List α) (f : α → List β) (n : Nat) (h : ∀ a, (f a).length = n) :
    (l.flatMap f).length = l.length * n := by
  simp [List.length_flatMap, h]

theorem length_statusData (s : State) : s.statusData.length = 57 := by
  have screens := length_flatMap_const (List.finRange 12) (fun i => (s.screen i).statusBytes) 4 fun _ => rfl
  unfold State.statusData
  simp only [List.length_append, screens, length_toBytes, List.length_finRange]
  rfl

theorem length_meterData (x : Screen) : x.meterData.length = 208 := by
  unfold Screen.meterData
  rw [length_flatMap_const _ _ 13 fun k => by simp [Feed.meterBytes], List.length_finRange]

theorem length_sources (i : Fin 12) : (screenSources i ++ feedSources i).length = 52 := by
  unfold feedSources
  rw [List.length_append, length_flatMap_const _ _ 3 fun _ => rfl, List.length_finRange]
  rfl

/-- Settles O45, report by report. -/
theorem reportsServed : Obligations.ReportsServed := by
  intro s tag scr ready
  refine ⟨?_, length_statusData s, fun a b id slot => ?_, fun i screen => ⟨?_, length_meterData _⟩, fun device => ?_,
    fun i screen => ⟨?_, length_sources i⟩⟩
  · exact State.exec_request ready (m := ⟨0x01, tag, scr, []⟩) rfl (Nat.zero_le _) .status rfl rfl
  · rw [State.exec_request ready (m := ⟨0x02, tag, scr, [a, b]⟩) rfl (by simp) .slotInfo rfl rfl]
    show Host.Outcome.next (s.takeSlotInfo _) = _
    rw [State.takeSlotInfo, show Message.slotRef ⟨0x02, tag, scr, [a, b]⟩ = some id from slot]
    rfl
  · rw [State.exec_request ready (m := ⟨0x17, tag, scr, []⟩) rfl (Nat.zero_le _) .meterRead rfl rfl]
    show Host.Outcome.next (s.takeMeterRead _) = _
    rw [State.takeMeterRead]
    dsimp only
    rw [screen]
    rfl
  · rw [State.exec_request ready (m := ⟨0x18, tag, scr, []⟩) rfl (Nat.zero_le _) .alarmRead rfl rfl]
    show Host.Outcome.next (s.takeAlarmRead _) = _
    rw [State.takeAlarmRead]
    exact congrArg Host.Outcome.next (if_pos device)
  · rw [State.exec_request ready (m := ⟨0x18, tag, scr, []⟩) rfl (Nat.zero_le _) .alarmRead rfl rfl]
    show Host.Outcome.next (s.takeAlarmRead _) = _
    rw [State.takeAlarmRead, if_neg (screenOf_ne_zero screen)]
    dsimp only
    rw [screen]
    rfl

/-! ### The staging buffer -/

/-- A run of bytes written is read back, and every other byte is what it was. -/
theorem Memory.writeAll_spec {d : Byte} {m : Memory} (canonical : Memory.wf d m = true) (x : Nat) (data : List Byte) :
    (∀ j, j < data.length → (m.writeAll d x data).read d (x + j) = data.getD j 0) ∧
      ∀ a, a < x ∨ x + data.length ≤ a → (m.writeAll d x data).read d a = m.read d a := by
  refine ⟨fun j hj => ?_, fun a outside => Memory.read_writeAll_outside d m x a data canonical outside⟩
  rw [Memory.read_writeAll d m x (x + j) data canonical, if_pos (by omega)]
  simp [hj]

/-- Settles O46, request by request. -/
theorem stagingRequests : Obligations.StagingRequests := by
  intro s tag scr ready running
  have started : s.device ≠ .starting := by rw [running]; nofun
  refine ⟨fun idle => ?_, fun offset data canonical idle short inside fits => ?_, fun offset n inside h1 h2 fits => ?_⟩
  · rw [State.exec_request ready (m := ⟨0x03, tag, scr, []⟩) rfl (Nat.zero_le _) .stageClear rfl rfl]
    show Host.Outcome.next (s.takeStageClear _) = _
    rw [State.takeStageClear, if_neg started, if_neg (not_not_intro idle)]
    rfl
  · have field : fieldAt (toBytes 2 offset.toNat ++ data) 0 2 = offset.toNat :=
      fieldAt_toBytes 2 _ _ (Half.toNat_lt_field offset)
    have tail : (toBytes 2 offset.toNat ++ data).drop 2 = data := rfl
    refine ⟨s.writeStaging offset.toNat data |>.replied ⟨0x04, tag, scr, .done, false, [], true⟩, ?_,
      (Memory.writeAll_spec canonical _ _).1, (Memory.writeAll_spec canonical _ _).2, rfl⟩
    rw [State.exec_request ready (m := ⟨0x04, tag, scr, toBytes 2 offset.toNat ++ data⟩) rfl
      (by rw [List.length_append, length_toBytes]; omega) .stageWrite rfl
      (by simp only [RequestKind.admits, List.length_append, length_toBytes, decide_eq_true_eq]; omega)]
    show Host.Outcome.next (s.takeStageWrite _) = _
    rw [State.takeStageWrite]
    dsimp only
    rw [field, tail, if_neg started, if_neg (not_not_intro ⟨inside, fits⟩), if_neg (not_not_intro idle)]
    rfl
  · have place : fieldAt (toBytes 2 offset.toNat ++ toBytes 2 n.toNat) 0 2 = offset.toNat :=
      fieldAt_toBytes 2 _ _ (Half.toNat_lt_field offset)
    have count : fieldAt (toBytes 2 offset.toNat ++ toBytes 2 n.toNat) 2 2 = n.toNat :=
      fieldAt_toBytes_end _ 2 2 _ rfl (Half.toNat_lt_field n)
    rw [State.exec_request ready (m := ⟨0x05, tag, scr, toBytes 2 offset.toNat ++ toBytes 2 n.toNat⟩) rfl (by simp)
      .stageRead rfl (by simp [RequestKind.admits])]
    show Host.Outcome.next (s.takeStageRead _) = _
    rw [State.takeStageRead]
    dsimp only
    rw [place, count, if_neg started, if_neg (not_not_intro ⟨inside, h1, h2, fits⟩)]
    rfl

/-! ### Reassembly -/

theorem State.laneBytes_append (s : State) (first n : Nat) (l l2 : List Byte) :
    s.laneBytes first n (l ++ l2) = (s.laneBytes first n l).laneBytes first (n + l.length) l2 := by
  induction l generalizing s n with
  | nil => rfl
  | cons b rest ih =>
    show (s.laneByte (decide (n = first)) b).laneBytes first (n + 1) (rest ++ l2) = _
    rw [ih, List.length_cons, Nat.add_right_comm n 1, ← Nat.add_assoc]
    rfl

/-- The bytes of a body, up to its announced length, lead to the wait for the check (R173). -/
theorem State.laneBytes_body (s : State) (first n k : Nat) (g l : List Byte) (whole : g.length + l.length = 5 + k)
    (some_left : l ≠ []) :
    State.laneBytes { s with asm := ⟨.body, g, k⟩ } first n l = { s with asm := ⟨.check, g ++ l, k⟩ } := by
  induction l generalizing g n with
  | nil => exact absurd rfl some_left
  | cons b rest ih =>
    have byte : State.laneByte { s with asm := ⟨.body, g, k⟩ } (decide (n = first)) b =
        { s with asm := ⟨if (g ++ [b]).length = 5 + k then .check else .body, g ++ [b], k⟩ } := rfl
    show State.laneBytes (State.laneByte { s with asm := ⟨.body, g, k⟩ } (decide (n = first)) b) first (n + 1) rest = _
    rw [byte]
    by_cases last : rest = []
    · subst last
      rw [if_pos (by simpa using whole)]
      rfl
    · have more : (g ++ [b]).length ≠ 5 + k := by
        have := List.length_pos_iff.2 last
        simp only [List.length_cons, List.length_append, List.length_nil] at whole ⊢
        omega
      rw [if_neg more, ih _ _ (by simp only [List.length_cons, List.length_append, List.length_nil] at whole ⊢; omega) last,
        List.append_assoc]
      rfl

/-- The five bytes of a header, from the start on, announce the body (R173). -/
theorem State.laneBytes_header (waits : s.asm = ⟨.waitStart, [], 0⟩) (a b c d e : Byte) :
    s.laneBytes 0 0 [a, b, c, d, e] = s.headerByte [a, b, c, d, e] := by
  unfold State.laneBytes
  simp only [State.laneBytes, State.laneByte, State.headerByte, waits, decide_true, if_true, List.length_cons, List.length_nil,
    List.nil_append, List.cons_append, Nat.reduceAdd, Nat.reduceLT]
  rfl

/-- The header, and the body that it announces, gathered (R173). -/
theorem State.laneBytes_gathered (waits : s.asm = ⟨.waitStart, [], 0⟩) (kind tag screen : Byte) (body : List Byte)
    (short : body.length ≤ 240) :
    s.laneBytes 0 0 ([kind, tag, screen] ++ toBytes 2 body.length ++ body) =
      { s with asm := ⟨.check, [kind, tag, screen] ++ toBytes 2 body.length ++ body, body.length⟩ } := by
  have announced : fieldAt ([kind, tag, screen] ++ toBytes 2 body.length) 3 2 = body.length :=
    fieldAt_toBytes_end _ 3 2 _ rfl (by omega)
  have header : s.laneBytes 0 0 ([kind, tag, screen] ++ toBytes 2 body.length) =
      s.headerByte ([kind, tag, screen] ++ toBytes 2 body.length) := State.laneBytes_header waits ..
  have full : ¬ ([kind, tag, screen] ++ toBytes 2 body.length).length < 5 := by simp
  rw [State.laneBytes_append, header, State.headerByte, if_neg full, announced, if_neg (by omega)]
  by_cases empty : body = []
  · subst empty
    rw [List.append_nil]
    rfl
  · rw [if_neg (by simpa using empty)]
    exact State.laneBytes_body s _ _ _ _ _ (by simp) empty

/-- The two bytes that end a message lead to its check (R175). -/
theorem State.laneBytes_check (s : State) (n k : Nat) (g : List Byte) (whole : g.length = 5 + k) (c d : Byte) :
    State.laneBytes { s with asm := ⟨.check, g, k⟩ } 0 n [c, d] =
      State.checkMessage { s with asm := ⟨.header, [], 0⟩ } (g ++ [c, d]) := by
  have first : State.laneByte { s with asm := ⟨.check, g, k⟩ } (decide (n = 0)) c =
      { s with asm := ⟨.check, g ++ [c], k⟩ } := if_neg (by simp [whole]; omega)
  have second : State.laneByte { s with asm := ⟨.check, g ++ [c], k⟩ } (decide (n + 1 = 0)) d =
      State.checkMessage { s with asm := ⟨.header, [], 0⟩ } (g ++ [c] ++ [d]) := if_pos (by simp [whole]; omega)
  show State.laneByte (State.laneByte { s with asm := ⟨.check, g, k⟩ } (decide (n = 0)) c) (decide (n + 1 = 0)) d = _
  rw [first, second, List.append_assoc]
  rfl

/-- Settles O40: header, body and check are gathered in turn, and the check is the CRC of the rest. -/
theorem laneReadsMessages : Obligations.LaneReadsMessages := by
  intro s kind tag screen body waits short
  have covered : messageBytes kind tag screen body = [kind, tag, screen] ++ toBytes 2 body.length ++ body ++
      crcBytes ([kind, tag, screen] ++ toBytes 2 body.length ++ body) := rfl
  have length : ([kind, tag, screen] ++ toBytes 2 body.length ++ body).length = 5 + body.length := by simp; omega
  have message : messageOf (messageBytes kind tag screen body) = ⟨kind, tag, screen, body⟩ := by
    have dropped : (messageBytes kind tag screen body).drop 5 =
        body ++ crcBytes ([kind, tag, screen] ++ toBytes 2 body.length ++ body) := rfl
    have total : (messageBytes kind tag screen body).length - 7 = body.length := by
      rw [covered, List.length_append, length, length_crcBytes]
      omega
    unfold messageOf
    rw [dropped, total, List.take_left]
    rfl
  obtain ⟨c, d, check⟩ : ∃ c d, crcBytes ([kind, tag, screen] ++ toBytes 2 body.length ++ body) = [c, d] := ⟨_, _, rfl⟩
  have sound : (crc16 ((messageBytes kind tag screen body).take ((messageBytes kind tag screen body).length - 2))).toNat =
      fieldAt (messageBytes kind tag screen body) ((messageBytes kind tag screen body).length - 2) 2 := by
    have size : (messageBytes kind tag screen body).length - 2 =
        ([kind, tag, screen] ++ toBytes 2 body.length ++ body).length := by
      rw [covered, List.length_append, length_crcBytes]
      rfl
    rw [size, covered, List.take_left, fieldAt_crcBytes]
  calc s.laneBytes 0 0 (messageBytes kind tag screen body)
      = State.laneBytes { s with asm := ⟨.check, [kind, tag, screen] ++ toBytes 2 body.length ++ body, body.length⟩ } 0
          (0 + ([kind, tag, screen] ++ toBytes 2 body.length ++ body).length) [c, d] := by
        rw [covered, State.laneBytes_append, State.laneBytes_gathered waits _ _ _ _ short, check]
    _ = State.checkMessage { s with asm := ⟨.header, [], 0⟩ } (messageBytes kind tag screen body) := by
        rw [State.laneBytes_check s _ _ _ length, covered, check]
    _ = State.place { s with asm := ⟨.header, [], 0⟩ } ⟨kind, tag, screen, body⟩ := by
        rw [State.checkMessage, if_pos sound, message]

/-! ### The return lane -/

theorem State.firstDeferred_of_split {l l2 : List SourceId} {id : SourceId} (all : allSources = l ++ id :: l2)
    (before : ∀ j ∈ l, (s.source j).unreported = false) (deferred : (s.source id).unreported = true) :
    s.firstDeferred = some id := by
  unfold State.firstDeferred
  rw [all, List.find?_append, List.find?_eq_none.2 fun j hj => by rw [before j hj]; nofun]
  simp [deferred]

theorem State.firstDeferred_none (h : ∀ id, (s.source id).unreported = false) : s.firstDeferred = none :=
  List.find?_eq_none.2 fun j _ => by rw [h j]; nofun

theorem State.setSource_tx (s : State) (id : SourceId) (x : Source) (l : List Byte) :
    ({ s.setSource id x with tx := l } : State) = State.setSource { s with tx := l } id x := by
  cases id <;> rfl

theorem State.reportValue_alarms (s : State) (l : List AlarmRecord) (id : SourceId) :
    State.reportValue { s with alarms := l } id = s.reportValue id := by
  cases id <;> rfl

theorem State.alarmLeaves_of_reported {r : AlarmRecord} {rest : List AlarmRecord} (ha : s.alarms = r :: rest)
    (reported : ∀ id, (s.source id).unreported = false) : s.alarmLeaves = { s with alarms := rest } := by
  have none_left : State.firstDeferred { s with alarms := rest } = none :=
    State.firstDeferred_none fun id => by rw [State.source_alarms, reported id]
  unfold State.alarmLeaves State.buildDeferred
  rw [ha, List.tail_cons, none_left]

/-- The first deferred source gets a record as the head of the list leaves (R129). -/
theorem State.alarmLeaves_of_deferred {r : AlarmRecord} {rest : List AlarmRecord} {l l2 : List SourceId} {id : SourceId}
    (ha : s.alarms = r :: rest) (all : allSources = l ++ id :: l2) (before : ∀ j ∈ l, (s.source j).unreported = false)
    (deferred : (s.source id).unreported = true) : s.alarmLeaves = State.setSource
      { s with alarms := rest ++ [⟨id, (s.source id).isUp, (s.source id).unreportedCount, s.outSeq, s.reportValue id⟩] }
      id { s.source id with unreported := false, unreportedCount := 0 } := by
  have first : State.firstDeferred { s with alarms := rest } = some id :=
    State.firstDeferred_of_split all (fun j hj => by rw [State.source_alarms, before j hj])
      (by rw [State.source_alarms, deferred])
  unfold State.alarmLeaves State.buildDeferred
  rw [ha, List.tail_cons, first]
  dsimp only
  rw [State.reportValue_alarms, State.source_alarms]

theorem State.beginNotice_alarm {r : AlarmRecord} {rest : List AlarmRecord} (hm : s.marks = []) (hn : s.storeNotices = [])
    (ha : s.alarms = r :: rest) : s.beginNotice = { s.alarmLeaves with tx := r.bytes } := by
  unfold State.beginNotice
  rw [hm, hn, ha]

/-- An arbiter without a complete reply at its head begins a notice (R182). -/
theorem State.beginMessage_of_incomplete (h : ∀ r ∈ s.replies.head?, r.complete = false) : s.beginMessage = s.beginNotice := by
  unfold State.beginMessage
  split
  next r rest hr =>
    have waits : r.complete = false := h r (by rw [hr]; rfl)
    rw [waits]
    rfl
  · rfl

theorem State.beginMessage_of_complete {r : Reply} {rest : List Reply} (hr : s.replies = r :: rest)
    (complete : r.complete = true) :
    s.beginMessage = State.takeHoldBuffer { s.clearEvents with replies := rest, tx := s.replyBytes r } := by
  unfold State.beginMessage
  rw [hr]
  exact if_pos complete

/-- Settles O41, queue by queue. -/
theorem arbiterOrders : Obligations.ArbiterOrders := by
  intro s
  refine ⟨fun r rest hr complete => ⟨fun stays => ?_, fun m buffer free room => ?_⟩, fun incomplete => ?_⟩
  · rw [State.beginMessage_of_complete hr complete]
    rcases stays with empty | held | full
    · exact State.takeHoldBuffer_none _ empty
    · exact State.takeHoldBuffer_held _ held
    · exact State.takeHoldBuffer_full full
  · rw [State.beginMessage_of_complete hr complete]
    exact State.takeHoldBuffer_some buffer free room
  · rw [State.beginMessage_of_incomplete incomplete]
    refine ⟨fun n rest hm => ?_, fun hm n rest hn => ?_, fun hm hn r rest ha => ⟨fun reported => ?_, ?_⟩, fun hm hn ha => ?_⟩
    · rw [State.beginNotice, hm]
    · rw [State.beginNotice, hm, hn]
    · rw [State.beginNotice_alarm hm hn ha, State.alarmLeaves_of_reported ha reported]
    · intro l id l2 all before deferred
      rw [State.beginNotice_alarm hm hn ha, State.alarmLeaves_of_deferred ha all before deferred]
      exact State.setSource_tx ..
    · rw [State.beginNotice, hm, hn, ha]

end

end Sys2Proof.Machine

/-! The requests of the table store (R65 to R74), PRESET-SELECT (R78 to R80) and FORMAT-OVERRIDE (R29). -/

namespace Sys2Proof.Machine

set_option Elab.async false

section
variable {s t : State} {i j : Fin 12} {id : SlotId} {m : Message}

/-! ### Loops over the screens and lines -/

/-- Steps over different indices that each change a view of their own index alone, by the view and what all steps leave:
after them the view of each index stepped is its own step's, and the others are as they were. -/
theorem foldl_each {ι α β : Type} [DecidableEq ι] {f : ι → State → State} {common : State → β} {view : State → ι → α}
    {next : ι → β → α → α} (hc : ∀ i u, common (f i u) = common u)
    (hv : ∀ i u j, view (f i u) j = if j = i then next i (common u) (view u i) else view u j) {l : List ι}
    (hn : l.Nodup) (s : State) : common (l.foldl (fun t i => f i t) s) = common s ∧
      ∀ j, view (l.foldl (fun t i => f i t) s) j = if j ∈ l then next j (common s) (view s j) else view s j := by
  induction l generalizing s with
  | nil => exact ⟨rfl, fun j => (if_neg List.not_mem_nil).symm⟩
  | cons a l ih =>
    rw [List.nodup_cons] at hn
    obtain ⟨kept, views⟩ := ih hn.2 (f a s)
    refine ⟨kept.trans (hc ..), fun j => ?_⟩
    rw [List.foldl_cons, views j, hc, hv]
    by_cases same : j = a
    · subst same
      rw [if_neg hn.1, if_pos rfl, if_pos List.mem_cons_self]
    · simp only [List.mem_cons, same, false_or, if_false]

/-- The same for the steps of all screens. -/
theorem State.forScreens_each {α β : Type} {f : Fin 12 → State → State} {common : State → β}
    {view : State → Fin 12 → α} {next : Fin 12 → β → α → α}
    (hc : ∀ i u, common (f i u) = common u)
    (hv : ∀ i u j, view (f i u) j = if j = i then next i (common u) (view u i) else view u j) (s : State) :
    common (s.forScreens f) = common s ∧ ∀ i, view (s.forScreens f) i = next i (common s) (view s i) := by
  obtain ⟨kept, views⟩ := foldl_each hc hv (List.nodup_finRange 12) s
  exact ⟨kept, fun i => (views i).trans (if_pos (List.mem_finRange i))⟩

/-! ### The format cache -/

/-- What touches the screens alone. -/
def State.Screened (s t : State) : Prop := { t with screens := s.screens } = s

theorem State.Screened.eq (h : s.Screened t) : t = { s with screens := t.screens } := by
  unfold State.Screened at h
  exact congrArg (fun v : State => { v with screens := t.screens }) h

theorem State.keepsScreens_screened (s : State) : KeepsScreens s.Screened := ⟨fun _ _ _ _ h => h⟩

/-- Every screen's matrix rebuilt is rebuilt from the cache as it stands (R37). -/
theorem State.rebuildAll_eq (s : State) : s.rebuildAll = { s with screens := s.rebuildAll.screens } :=
  State.Screened.eq (State.rebuildAll_keeps s.keepsScreens_screened rfl)

theorem State.screen_rebuild_cache (s : State) (i j : Fin 12) : (s.rebuild i).screen j =
    if j = i then (s.screen i).rebuilt ((s.cache[(s.screen i).effectiveCode]).getD format0) else s.screen j := by
  unfold State.rebuild State.formatFor
  rw [State.screen_onScreen]
  split
  next e => rw [e]
  · rfl

theorem State.screen_rebuildAll (s : State) (j : Fin 12) :
    s.rebuildAll.screen j = (s.screen j).rebuilt (s.formatFor (s.screen j).effectiveCode) := by
  unfold State.rebuildAll State.formatFor
  exact (State.forScreens_each (f := fun i t => t.rebuild i) (common := State.cache) (view := State.screen)
    (next := fun _ v x => x.rebuilt ((v[x.effectiveCode]).getD format0)) (fun _ _ => rfl)
    (fun i u j => u.screen_rebuild_cache i j) s).2 j

theorem State.setCache_eq (s : State) (c : Fin 16) (e : Option Format) :
    s.setCache c e = { s with cache := s.cache.set c e, screens := (s.setCache c e).screens } :=
  State.rebuildAll_eq { s with cache := s.cache.set c e }

theorem State.cache_setCache (s : State) (c q : Fin 16) (e : Option Format) :
    (s.setCache c e).cache[q] = if q = c then e else s.cache[q] := by
  rw [State.setCache_eq]
  show (s.cache.set c.val e c.isLt)[q.val] = _
  rw [Vector.getElem_set]
  simp only [Fin.ext_iff, eq_comm]
  rfl

theorem State.screen_setCache (s : State) (c : Fin 16) (e : Option Format) (j : Fin 12) :
    (s.setCache c e).screen j = (s.screen j).rebuilt ((s.setCache c e).formatFor (s.screen j).effectiveCode) := by
  have cache : (s.setCache c e).cache = s.cache.set c e := by rw [State.setCache_eq]
  have format : (s.setCache c e).formatFor (s.screen j).effectiveCode =
      State.formatFor { s with cache := s.cache.set c e } (s.screen j).effectiveCode := by
    unfold State.formatFor
    rw [cache]
  rw [format]
  exact State.screen_rebuildAll { s with cache := s.cache.set c e } j

/-- A format slot's cache entry made absent; a room slot has none (R26). -/
theorem State.dropCache_eq (s : State) (id : SlotId) :
    s.dropCache id = { s with cache := (s.dropCache id).cache, screens := (s.dropCache id).screens } := by
  cases id with
  | room i n => rfl
  | format f =>
    have h := s.setCache_eq (formatCode f) none
    have cache : (s.setCache (formatCode f) none).cache = s.cache.set (formatCode f) none := by rw [h]
    show s.setCache _ _ = { s with cache := (s.setCache _ _).cache, screens := (s.setCache _ _).screens }
    rw [cache]
    exact h

theorem State.cache_dropCache (s : State) (id : SlotId) (q : Fin 16) : (s.dropCache id).cache[q] =
    match id with
    | .format f => if q = f.succ then none else s.cache[q]
    | .room _ _ => s.cache[q] := by
  cases id with
  | room i n => rfl
  | format f => exact State.cache_setCache s (formatCode f) q none

/-! ### Slots -/

theorem State.onSlot_onSlot (s : State) (id : SlotId) (f g : Slot → Slot) :
    (s.onSlot id f).onSlot id g = s.onSlot id fun x => g (f x) := by
  unfold State.onSlot
  dsimp only
  rw [Vector.set_set]
  congr 2
  exact congrArg g (State.slot_onSlot_same s id f)

theorem labelSize_room (i : Fin 12) (n : Fin 4) : labelSize (SlotId.room i n).index.val = 32 :=
  if_pos (by show 4 * i.val + n.val < 48; omega)

theorem labelSize_format (f : Fin 15) : labelSize (SlotId.format f).index.val = 16 :=
  if_neg (by show ¬ 48 + f.val < 48; omega)

theorem State.slot_dropCache (s : State) (id a : SlotId) : (s.dropCache id).slot a = s.slot a := by
  rw [State.dropCache_eq]
  rfl

theorem State.slot_clearSlot (s : State) (id a : SlotId) (x : SlotState) : (s.clearSlot id x).slot a =
    if a = id then { s.slot a with state := x, boot := false, label := List.replicate (labelSize a.index.val) 0 }
    else s.slot a := by
  unfold State.clearSlot
  split
  next e => subst e; exact State.slot_onSlot_same ..
  next e => exact State.slot_onSlot_other _ _ _ _ e

/-! ### STAGE-FETCH and COMMIT -/

/-- Settles O47: the hold, then the grant of the port. -/
theorem stageFetchHolds : Obligations.StageFetchHolds := by
  intro s tag scr a b offset id ready running slot inside fits idle kept t
  have started : s.device ≠ .starting := by rw [running]; nofun
  have field : fieldAt ([a, b] ++ toBytes 2 offset.toNat) 2 2 = offset.toNat :=
    fieldAt_toBytes_end _ 2 2 _ rfl (Half.toNat_lt_field offset)
  have taken : exec (.stageFetch tag scr a b offset) s = .next t.grant := by
    rw [State.exec_request ready (m := ⟨0x06, tag, scr, [a, b] ++ toBytes 2 offset.toNat⟩) rfl (by simp) .stageFetch rfl
      (by simp [RequestKind.admits])]
    show Host.Outcome.next (s.takeStageFetch _) = _
    rw [State.takeStageFetch]
    dsimp only
    rw [if_neg started, show Message.slotRef ⟨0x06, tag, scr, [a, b] ++ toBytes 2 offset.toNat⟩ = some id from slot, field]
    dsimp only
    rw [if_neg (not_not_intro ⟨inside, fits⟩), if_neg (not_not_intro idle), if_pos kept]
    rfl
  refine ⟨fun port => ?_, fun port scan refreshes loads => ?_⟩
  · rw [taken, State.grant_of_port (s := t) port]
  · rw [taken, State.grant_engine (s := t) port scan loads refreshes rfl]
    rfl

/-- Settles O48: the accepted commit, then the grant of the port. -/
theorem commitAccepted : Obligations.CommitAccepted := by
  intro s tag scr a b id ready running slot idle room unlocked free image
  have started : s.device ≠ .starting := by rw [running]; nofun
  have taken : exec (.commit tag scr a b) s =
      .next ((s.beginCommit id).reply ⟨0x07, tag, scr, [a, b]⟩ .accepted []).grant := by
    rw [State.exec_request ready (m := ⟨0x07, tag, scr, [a, b]⟩) rfl (by simp) .commit rfl rfl]
    show Host.Outcome.next (s.takeCommit _) = _
    rw [State.takeCommit, if_neg started, show Message.slotRef ⟨0x07, tag, scr, [a, b]⟩ = some id from slot]
    dsimp only
    rw [if_neg (not_not_intro ⟨idle, room⟩), if_neg (by rw [unlocked]; nofun), if_neg (by rw [free]; nofun),
      if_neg (not_not_intro image)]
  rw [taken]
  let u := (s.beginCommit id).reply ⟨0x07, tag, scr, [a, b]⟩ .accepted []
  refine ⟨fun port => congrArg _ (State.grant_of_port (s := u) port), fun port scan loads refreshes work => ?_⟩
  · have granted : u.grant = State.setMark { u with
        port := some ⟨.commitWrite, 0⟩, commit := { u.commit with state := .writing } } id .opened := by
      rw [State.grant_commit_of_waiting (s := u) port scan loads refreshes work rfl, State.grantCommit,
        if_pos (by cases id <;> exact Nat.zero_lt_succ _)]
      exact if_pos rfl
    show Host.Outcome.next u.grant = _
    rw [granted]
    have opened := congrArg State.slots (State.onSlot_onSlot s id (fun x => { x with state := .writing })
      fun x => { x with mark := .opened })
    exact congrArg (fun v => Host.Outcome.next (State.replied { s with
      slots := v
      commit := ⟨.writing, id, (s.slot id).state, 0, 0, false, s.commit.last⟩
      port := some ⟨.commitWrite, 0⟩ } ⟨0x07, tag, scr, .accepted, false, [], true⟩)) opened

/-! ### COMMIT-ABANDON -/

theorem State.takeCommitAbandon_of_waiting (running : s.device = .running) (waiting : s.commit.state = .waiting)
    (m : Message) : s.takeCommitAbandon m = (s.endCommit .abandoned).reply m .done [] := by
  unfold State.takeCommitAbandon
  rw [running, waiting, if_neg nofun]

/-- The slot of a commit that ends otherwise than as its image stands: INVALID, its copies cleared (R69, R70). -/
theorem State.slot_spoiled (s : State) (id a : SlotId) : ((s.clearSlot id .invalid).dropCache id).slot a =
    if a = id then { s.slot a with state := .invalid, boot := false, label := List.replicate (labelSize a.index.val) 0 }
    else s.slot a := by
  rw [State.slot_dropCache, State.slot_clearSlot]

/-- Settles O49, by the state of the commit. -/
theorem commitAbandoned : Obligations.CommitAbandoned := by
  intro s tag scr ready running
  have started : s.device ≠ .starting := by rw [running]; nofun
  have taken : exec (.commitAbandon tag scr) s = .next (s.takeCommitAbandon ⟨0x08, tag, scr, []⟩) :=
    State.exec_request ready (m := ⟨0x08, tag, scr, []⟩) rfl (Nat.zero_le _) .commitAbandon rfl rfl
  refine ⟨fun idle => ?_, fun waiting written => ?_, fun waiting written => ?_, fun busy => ?_⟩
  · rw [taken, State.takeCommitAbandon, if_neg started, idle]
    rfl
  · rw [taken, State.takeCommitAbandon_of_waiting running waiting, State.endCommit, State.commitSlot]
    dsimp only
    rw [if_pos written]
    rfl
  · have slot : s.commitSlot .abandoned = (s.clearSlot s.commit.target .invalid).dropCache s.commit.target := if_neg written
    have frame := State.dropCache_eq (s.clearSlot s.commit.target .invalid) s.commit.target
    rw [← slot] at frame
    have slots (a : SlotId) : (s.endCommit .abandoned).slot a = (s.commitSlot .abandoned).slot a := rfl
    refine ⟨s.endCommit .abandoned, ?_, ?_, ?_, ?_, ?_, fun j other => ?_, fun q => ?_, fun i n room => ?_, ?_⟩
    · rw [taken, State.takeCommitAbandon_of_waiting running waiting]
      rfl
    · rw [slots, slot, State.slot_spoiled, if_pos rfl]
    · rw [slots, slot, State.slot_spoiled, if_pos rfl]
    · rw [slots, slot, State.slot_spoiled, if_pos rfl]
      exact fun b => List.eq_of_mem_replicate
    · rw [slots, slot, State.slot_spoiled, if_pos rfl]
    · rw [slots, slot, State.slot_spoiled, if_neg other]
    · show (s.commitSlot .abandoned).cache[q] = _
      rw [slot]
      exact State.cache_dropCache ..
    · show (s.commitSlot .abandoned).screens = _
      rw [slot, room]
      rfl
    · have queue : (s.commitSlot .abandoned).storeNotices = s.storeNotices := by
        rw [frame]
        rfl
      have ended : s.endCommit .abandoned = { s.commitSlot .abandoned with
          commit := { s.commit with state := .idle, abandon := false, last := .abandoned }
          commitEnded := true
          storeNotices := (s.commitSlot .abandoned).storeNotices ++ [StoreNotice.mk s.commit.target .abandoned] } := rfl
      refine ended.trans ?_
      rw [queue]
      exact congrArg (fun v : State => { v with
        commit := { s.commit with state := .idle, abandon := false, last := .abandoned }
        commitEnded := true
        storeNotices := s.storeNotices ++ [StoreNotice.mk s.commit.target .abandoned]
        slots := (s.commitSlot .abandoned).slots }) frame
  · rw [taken, State.takeCommitAbandon, if_neg started]
    rcases busy with h | h <;> rw [h] <;> rfl

/-! ### SLOT-ERASE -/

theorem State.takeSlotErase_kept (running : s.device = .running) (slot : m.slotRef = some id)
    (unlocked : s.slotLocked id = false) (free : s.slotProtected id = false) (unused : s.slotLive id = false)
    (kept : (s.slot id).state = .valid ∨ (s.slot id).state = .invalid) :
    s.takeSlotErase m = (s.beginErase id).hold m (.erase id 0) := by
  have states : (s.slot id).state ≠ .writing ∧ (s.slot id).state ≠ .empty := by
    rcases kept with h | h <;> rw [h] <;> exact ⟨nofun, nofun⟩
  unfold State.takeSlotErase
  rw [running, if_neg nofun, slot]
  dsimp only
  rw [if_neg (by rw [unlocked]; nofun), if_neg (by rw [free, unused]; simp [states.1]), if_neg states.2]

/-- Settles O50: the slot, its cache entry, and then the grant of the port. -/
theorem slotErased : Obligations.SlotErased := by
  intro s tag scr a b id ready running slot unlocked free unused
  have started : s.device ≠ .starting := by rw [running]; nofun
  have taken : exec (.slotErase tag scr a b) s = .next (s.takeSlotErase ⟨0x09, tag, scr, [a, b]⟩) :=
    State.exec_request ready (m := ⟨0x09, tag, scr, [a, b]⟩) rfl (by simp) .slotErase rfl rfl
  have named : Message.slotRef ⟨0x09, tag, scr, [a, b]⟩ = some id := slot
  refine ⟨fun empty => ?_, fun kept => ⟨fun i n room => ?_, fun f format port => ?_⟩⟩
  · rw [taken, State.takeSlotErase, if_neg started, named]
    dsimp only
    rw [if_neg (by rw [unlocked]; nofun), if_neg (by rw [free, unused, empty]; nofun), if_pos empty]
    rfl
  · subst room
    intro t
    have begun : exec (.slotErase tag scr a b) s = .next t.grant := by
      rw [taken, State.takeSlotErase_kept running named unlocked free unused kept]
      show Host.Outcome.next (State.hold (s.clearSlot _ .empty) _ _) = _
      unfold State.clearSlot Slot.cleared
      rw [labelSize_room]
      rfl
    rw [begun]
    refine ⟨fun port => congrArg _ (State.grant_of_port (s := t) port), fun port scan loads refreshes => ?_⟩
    rw [State.grant_engine (s := t) port scan loads refreshes rfl]
    rfl
  · subst format
    rw [taken, State.takeSlotErase_kept running named unlocked free unused kept]
    let c := s.onSlot (.format f) fun x => { x with state := .empty, boot := false, label := List.replicate 16 0 }
    have cleared : s.clearSlot (.format f) .empty = c := by
      unfold State.clearSlot Slot.cleared
      rw [labelSize_format]
    have frame := c.setCache_eq f.succ none
    have entries (q : Fin 16) := c.cache_setCache f.succ q none
    have screens (i : Fin 12) := c.screen_setCache f.succ none i
    have dropped : (s.clearSlot (.format f) .empty).dropCache (.format f) = c.setCache f.succ none := by
      rw [cleared]
      rfl
    generalize c.setCache f.succ none = u at frame entries screens dropped
    let t : State := { u with
      refreshes := u.refreshes.filter fun g => decide (g ≠ f)
      dropRefresh := u.dropRefresh || decide (u.port.map PortUnit.work = some (.refresh f))
      replies := u.replies ++ [⟨0x09, tag, scr, .done, false, [], false⟩]
      held := some ⟨0x09, tag, scr, [a, b]⟩
      engineWork := some (.erase (.format f) 0) }
    have filled : u.refreshes = s.refreshes ∧ u.dropRefresh = s.dropRefresh ∧ u.port = s.port ∧ u.replies = s.replies := by
      rw [frame]
      exact ⟨rfl, rfl, rfl, rfl⟩
    obtain ⟨hr, hd, hp, hq⟩ := filled
    have held : (s.beginErase (.format f)).hold ⟨0x09, tag, scr, [a, b]⟩ (.erase (.format f) 0) = t := by
      have granted : (s.beginErase (.format f)).hold ⟨0x09, tag, scr, [a, b]⟩ (.erase (.format f) 0) = t.grant := by
        unfold State.beginErase
        rw [dropped]
        rfl
      exact granted.trans (State.grant_of_port (s := t) (by show u.port ≠ none; rw [hp]; exact port))
    refine ⟨t, congrArg _ held, entries, fun i k => ?_, fun i => ?_, ?_⟩
    · show (u.screen i).feed k = _
      rw [screens]
      exact Screen.feed_mapFeeds ..
    · show u.screen i = { s.screen i with feeds := (u.screen i).feeds }
      rw [screens]
      rfl
    · show State.mk .. = _
      rw [hr, hd, hp, hq]
      exact congrArg (fun v : State => { v with
        cache := u.cache
        port := s.port
        refreshes := s.refreshes.filter fun g => decide (g ≠ f)
        dropRefresh := s.dropRefresh || decide (s.port.map PortUnit.work = some (PortWork.refresh f))
        replies := s.replies ++ [Reply.mk 0x09 tag scr .done false [] false]
        held := some ⟨0x09, tag, scr, [a, b]⟩
        engineWork := some (.erase (.format f) 0) }) frame

/-! ### PRESET-SELECT -/

theorem State.findScreen_setScreen {p : Screen → Bool} {x : Screen} (none_before : s.findScreen p = none) (hx : p x = true) :
    (s.setScreen i x).findScreen p = some i := by
  have others : ∀ j, ¬ p (s.screen j) = true := fun j => List.find?_eq_none.1 none_before j (List.mem_finRange j)
  have found : p ((s.setScreen i x).screen i) = true := by rw [State.screen_setScreen_same]; exact hx
  unfold State.findScreen
  obtain ⟨j, hj⟩ := Option.isSome_iff_exists.1
    (List.find?_isSome.2 ⟨i, List.mem_finRange i, found⟩ :
      ((List.finRange 12).find? fun j => p ((s.setScreen i x).screen j)).isSome = true)
  rw [hj]
  by_contra other
  have waits := List.find?_some hj
  rw [State.screen_setScreen_other (h := fun e => other (congrArg some e))] at waits
  exact others j waits

/-- An operation for a slot begun behind other store work (R79). -/
theorem State.beginOp_slot_of_port (n : Fin 4) (port : s.port ≠ none) :
    s.beginOp i (.slot n) = s.setScreen i { s.screen i with running := some ⟨.slot n, .loadWait⟩ } :=
  State.grant_of_port (s := s.setScreen i _) port

/-- An operation for a slot begun with the port free and no other load waiting takes the port (R74, R79). -/
theorem State.beginOp_slot_of_free (n : Fin 4) (port : s.port = none) (scan : s.scan = none)
    (loads : s.findScreen Screen.loadWaits = none) : s.beginOp i (.slot n) =
      { s.setScreen i { s.screen i with running := some ⟨.slot n, .loading⟩ } with port := some ⟨.load i, 0⟩ } := by
  show State.grant (s.setScreen i { s.screen i with running := some ⟨.slot n, .loadWait⟩ }) = _
  rw [State.grant_load (s := s.setScreen i _) port scan (State.findScreen_setScreen loads rfl), State.onScreen_setScreen]
  rfl

/-- Settles O51, by what runs and what holds the port. -/
theorem presetSelected : Obligations.PresetSelected := by
  intro s tag scr b i n ready running screen hb unlocked valid
  have started : s.device ≠ .starting := by rw [running]; nofun
  have inside : (byteAt [b] 0).toNat < 4 := by
    show b.toNat < 4
    omega
  have place : (⟨(byteAt [b] 0).toNat, inside⟩ : Fin 4) = n := Fin.ext hb
  have taken : exec (.presetSelect tag scr b) s =
      .next ((s.placeOp i (.slot n)).replied ⟨0x0A, tag, scr, .done, false, [], true⟩) := by
    rw [State.exec_request ready (m := ⟨0x0A, tag, scr, [b]⟩) rfl (by simp) .presetSelect rfl rfl]
    show Host.Outcome.next (s.takePresetSelect _) = _
    rw [State.takePresetSelect, if_neg started]
    dsimp only
    rw [screen]
    dsimp only
    rw [dif_pos inside, if_neg (by rw [unlocked]; nofun), place, if_pos valid]
    rfl
  rw [taken, State.placeOp]
  refine ⟨fun idle port => ?_, fun idle port scan loads => ?_, fun busy => ?_⟩
  · rw [if_pos (by rw [idle]; rfl), State.beginOp_slot_of_port n port]
  · rw [if_pos (by rw [idle]; rfl), State.beginOp_slot_of_free n port scan loads]
  · rw [if_neg (by simpa using busy)]
    rfl

/-! ### FORMAT-OVERRIDE -/

theorem State.takeFormatOverride_cached (running : s.device = .running) {m : Message} {v : Option (Fin 16)}
    (screen : screenOf m.screen = some i) (format : overrideField (byteAt m.body 0) = some v)
    (unlocked : (s.screen i).showLock = false) (cached : ∀ c, v = some c → (s.cache[c]).isSome = true) :
    s.takeFormatOverride m = (s.takeOverride i v).reply m .done [] := by
  unfold State.takeFormatOverride
  rw [running, if_neg nofun, screen, format]
  dsimp only
  rw [if_neg (by rw [unlocked]; nofun)]
  cases v with
  | none => rfl
  | some c => exact if_pos (cached c rfl)

theorem State.onScreen_onScreen (s : State) (i : Fin 12) (f g : Screen → Screen) :
    (s.onScreen i f).onScreen i g = s.onScreen i fun x => g (f x) := State.onScreen_setScreen ..

/-- The override set, before the rebuild, for the block in progress too (R29). -/
def Screen.overridden (x : Screen) (v : Option (Fin 16)) : Screen :=
  { x with override := v, handed := { x.handed with override := v } }

theorem State.takeOverride_eq (s : State) (i : Fin 12) (v : Option (Fin 16)) : s.takeOverride i v =
    s.setScreen i (((s.screen i).overridden v).rebuilt (s.formatFor (v.getD (s.screen i).tracker.code))) := by
  unfold State.takeOverride State.setOverride State.rebuild
  rw [State.onScreen_onScreen, State.onScreen_onScreen]
  rfl

/-- Settles O52: the screen overridden and rebuilt for its new effective format. -/
theorem formatOverridden : Obligations.FormatOverridden := by
  intro s tag scr b i v ready running screen format unlocked cached
  have own : (s.takeOverride i v).screen i =
      ((s.screen i).overridden v).rebuilt (s.formatFor (v.getD (s.screen i).tracker.code)) := by
    rw [State.takeOverride_eq, State.screen_setScreen_same]
  refine ⟨s.takeOverride i v, ?_, ?_, fun k => ?_⟩
  · rw [State.exec_request ready (m := ⟨0x0B, tag, scr, [b]⟩) rfl (by simp) .formatOverride rfl rfl]
    exact congrArg Host.Outcome.next (State.takeFormatOverride_cached running screen format unlocked cached)
  · rw [own]
    exact State.takeOverride_eq s i v
  · show ((s.takeOverride i v).screen i).feed k = _
    rw [own]
    exact Screen.feed_mapFeeds ..

end

end Sys2Proof.Machine

/-! The ends of the units of store work: format refreshes (R25), page writes and verifies of a commit (R68 to R71), erase
pages and fetches (R65, R73). -/

namespace Sys2Proof.Machine

set_option Elab.async false

section
variable {s t : State} {id : SlotId} {r : CommitResult}

/-! ### The end of a unit that is due -/

theorem State.endUnitOf_due {p : PortWork → Bool} {w : PortWork} {age : Nat} (port : s.port = some ⟨w, age⟩) (lasted : 1 ≤ age)
    (named : p w = true) (u : Upset) : s.endUnitOf p u = s.endUnit u := by
  unfold State.endUnitOf State.unitDue
  rw [port]
  exact if_pos (by simp [named, lasted])

theorem State.endHeldUnitOf_due {p : PortWork → Bool} {w : PortWork} {age : Nat} (port : s.port = some ⟨w, age⟩)
    (lasted : 1 ≤ age) (named : p w = true) (u : Upset) : s.endHeldUnitOf p u = (s.endUnit u).takeHoldBuffer := by
  unfold State.endHeldUnitOf State.unitDue
  rw [port]
  exact if_pos (by simp [named, lasted])

/-- A write of the slot array by its bytes, every other byte left (R62). -/
theorem State.writeArray_spec (canonical : Memory.wf arrayDefault s.array = true) (x : Nat) {data : List Byte} {n : Nat}
    (hn : data.length = n) :
    (∀ j, j < n → Memory.read arrayDefault (s.writeArray x data).array (x + j) = data.getD j 0) ∧
      ∀ a, a < x ∨ x + n ≤ a → Memory.read arrayDefault (s.writeArray x data).array a = Memory.read arrayDefault s.array a := by
  subst hn
  exact Memory.writeAll_spec canonical x data

theorem State.cache_grant (s : State) : s.grant.cache = s.cache := by rw [s.grant_eq]

/-! ### Format refreshes -/

/-- Settles O32: the refresh discarded, or the one entry set by the CRC. -/
theorem formatRefreshed : Obligations.FormatRefreshed := by
  intro s f age u port lasted
  have taken : exec (.formatRefreshEnd u) s = .next (s.endRefresh f u) := by
    show Host.Outcome.next (s.endUnitOf PortWork.isRefresh u) = _
    rw [State.endUnitOf_due port lasted rfl, State.endUnit, port]
  refine ⟨s.endRefresh f u, taken, ?_⟩
  cases dropped : s.dropRefresh with
  | true =>
    have discarded : s.endRefresh f u = State.grant { s.freePort with dropRefresh := false } := if_pos dropped
    rw [discarded]
    have cache : (State.grant { s.freePort with dropRefresh := false }).cache = s.cache := State.cache_grant _
    refine ⟨fun _ => cache, nofun, fun a => (State.slot_grant _ a).1, ?_⟩
    rw [cache]
    exact State.grant_eq { s.freePort with dropRefresh := false }
  | false =>
    have replaced : s.endRefresh f u = (s.freePort.setCache f.succ
        (if imageCrcOk (.format f) (delivered u (s.slotImage (.format f)))
          then some (formatOf (delivered u (s.slotImage (.format f)))) else none)).grant := by
      unfold State.endRefresh
      rw [if_neg (by rw [dropped]; nofun)]
      split <;> rfl
    rw [replaced]
    generalize (if imageCrcOk (.format f) (delivered u (s.slotImage (.format f)))
          then some (formatOf (delivered u (s.slotImage (.format f)))) else none) = e
    have entries (q : Fin 16) := s.freePort.cache_setCache f.succ q e
    have before := s.freePort.setCache_eq f.succ e
    generalize s.freePort.setCache f.succ e = v at entries before
    have cache : v.grant.cache = v.cache := v.cache_grant
    refine ⟨nofun, fun _ c => ?_, fun a => ?_, ?_⟩
    · rw [cache]
      exact entries c
    · have slot : v.slot a = s.slot a := by rw [before]; rfl
      rw [← slot]
      exact (State.slot_grant v a).1
    · rw [cache, ← dropped]
      refine v.grant_eq.trans ?_
      exact congrArg (fun w : State => { w with
        screens := v.grant.screens, slots := v.grant.slots, port := v.grant.port, refreshes := v.grant.refreshes
        commit := v.grant.commit, cache := v.cache }) before

/-! ### The end of a commit -/

/-- What the units of a commit and their grants leave: all but the screens, the slots, the port, the refresh queue, the
commit record, the cache, the COMMIT-ENDED flag and the STORE notices. -/
def State.Committed (s t : State) : Prop :=
  { t with
    screens := s.screens, slots := s.slots, port := s.port, refreshes := s.refreshes, commit := s.commit, cache := s.cache
    commitEnded := s.commitEnded, storeNotices := s.storeNotices } = s

theorem State.Committed.eq (h : s.Committed t) : t = { s with
    screens := t.screens, slots := t.slots, port := t.port, refreshes := t.refreshes, commit := t.commit, cache := t.cache
    commitEnded := t.commitEnded, storeNotices := t.storeNotices } := by
  unfold State.Committed at h
  exact congrArg (fun v : State => { v with
    screens := t.screens, slots := t.slots, port := t.port, refreshes := t.refreshes, commit := t.commit, cache := t.cache
    commitEnded := t.commitEnded, storeNotices := t.storeNotices }) h

theorem State.keepsGrant_committed (s : State) : KeepsGrant s.Committed where
  screen := fun _ _ _ _ h => h
  slots := fun _ _ h => h
  refreshes := fun _ _ h => h
  portTo := fun _ _ _ _ h => h
  portFree := fun _ h => h
  portAge := fun _ h => h
  commitUnit := fun _ _ _ _ _ h => h

theorem State.keepsSlots_committed (s : State) : KeepsSlots s.Committed where
  screen := fun _ _ _ _ h => h
  slots := fun _ _ h => h
  refreshes := fun _ _ h => h
  cache := fun _ _ h => h

theorem State.Committed.endCommit (h : s.Committed t) (r : CommitResult) : s.Committed (t.endCommit r) :=
  State.commitSlot_keeps s.keepsSlots_committed (r := r) h

theorem State.Committed.grant (h : s.Committed t) : s.Committed t.grant := State.grant_keeps s.keepsGrant_committed h

/-- A commit ended, before the port is granted (R69, R71). -/
theorem State.endCommit_spec (s : State) (r : CommitResult) :
    (s.endCommit r).commit = { s.commit with state := .idle, abandon := false, last := r } ∧
      (s.endCommit r).commitEnded = true ∧
      (s.endCommit r).storeNotices = s.storeNotices ++ [⟨s.commit.target, r⟩] ∧
      (s.endCommit r).engineWork = s.engineWork ∧ ∀ a, (s.endCommit r).slot a = (s.commitSlot r).slot a := by
  have notices : (s.commitSlot r).storeNotices = s.storeNotices :=
    State.commitSlot_keeps (P := fun t => t.storeNotices = s.storeNotices)
      ⟨⟨fun _ _ _ _ h => h⟩, fun _ _ h => h, fun _ _ h => h, fun _ _ h => h⟩ rfl
  have work : (s.commitSlot r).engineWork = s.engineWork :=
    State.commitSlot_keeps (P := fun t => t.engineWork = s.engineWork)
      ⟨⟨fun _ _ _ _ h => h⟩, fun _ _ h => h, fun _ _ h => h, fun _ _ h => h⟩ rfl
  exact ⟨rfl, rfl, congrArg (· ++ _) notices, work, fun _ => rfl⟩

/-- A commit ended, after the grant of the port: the record IDLE, the notice queued, the slot as the end left it but for
the mark of an erase whose first page is granted (R69, R71, R74). -/
theorem State.endCommit_grant_spec (s : State) (r : CommitResult) :
    (s.endCommit r).grant.commit = { s.commit with state := .idle, abandon := false, last := r } ∧
      (s.endCommit r).grant.commitEnded = true ∧
      (s.endCommit r).grant.storeNotices = s.storeNotices ++ [⟨s.commit.target, r⟩] ∧
      ∀ a, (s.endCommit r).grant.slot a =
          { (s.commitSlot r).slot a with mark := ((s.endCommit r).grant.slot a).mark } ∧
        (s.engineWork ≠ some (.erase a 0) → (s.endCommit r).grant.slot a = (s.commitSlot r).slot a) := by
  obtain ⟨commit, ended, notices, work, slots⟩ := s.endCommit_spec r
  generalize s.endCommit r = u at commit ended notices work slots
  have frame := u.grant_eq
  obtain ⟨record, idle⟩ := u.commit_grant
  have stays : u.grant.commit.state = .idle := idle.2 (by rw [commit])
  refine ⟨?_, ?_, ?_, fun a => ?_⟩
  · rw [record, stays, commit]
  · rw [frame]; exact ended
  · rw [frame]; exact notices
  · obtain ⟨fields, same⟩ := u.slot_grant a
    rw [slots, work] at same
    rw [slots] at fields
    exact ⟨fields, fun quiet => same quiet (.inl (by rw [commit]; nofun))⟩

theorem State.slots_markStale (s : State) (id : SlotId) : (s.markStale id).slots = s.slots := by
  cases id <;> rfl

theorem State.slots_queueRefresh (s : State) (f : Fin 15) : (s.queueRefresh f).slots = s.slots := by
  unfold State.queueRefresh
  split <;> rfl

/-- The slot of a commit that ended OK (R69). -/
theorem State.slot_commitSlot_ok (s : State) : (s.commitSlot .ok).slot s.commit.target =
    { s.slot s.commit.target with
      state := .valid
      boot := imageBoot s.commit.target (s.stagedImage s.commit.target)
      label := imageLabel s.commit.target (s.stagedImage s.commit.target)
      mark := .closed } := by
  have validated : ((s.setMark s.commit.target .closed).validateSlot s.commit.target
      (s.stagedImage s.commit.target)).slot s.commit.target = { s.slot s.commit.target with
        state := .valid
        boot := imageBoot s.commit.target (s.stagedImage s.commit.target)
        label := imageLabel s.commit.target (s.stagedImage s.commit.target)
        mark := .closed } := by
    unfold State.validateSlot State.setMark
    rw [State.onSlot_onSlot, State.slot_onSlot_same]
  have kept : (s.commitSlot .ok).slots =
      ((s.setMark s.commit.target .closed).validateSlot s.commit.target (s.stagedImage s.commit.target)).slots := by
    unfold State.commitSlot
    dsimp only
    split
    · exact State.slots_markStale ..
    · exact (State.slots_queueRefresh ..).trans (State.slots_markStale ..)
  exact (congrArg (fun v : Vector Slot 63 => v[s.commit.target.index]) kept).trans validated

/-- The slot of a commit that did not end OK and left a page written, or failed its verify (R69, R70). -/
theorem State.slot_commitSlot_spoiled (s : State) (h : r = .verifyFail ∨ r = .abandoned ∧ s.commit.written ≠ 0) :
    ((s.commitSlot r).slot s.commit.target).state = .invalid := by
  have spoiled : s.commitSlot r = (s.clearSlot s.commit.target .invalid).dropCache s.commit.target := by
    rcases h with rfl | ⟨rfl, written⟩
    · rfl
    · exact if_neg written
  rw [spoiled, State.slot_spoiled, if_pos rfl]

theorem State.slot_commitSlot_untouched (s : State) (h : s.commit.written = 0) :
    ((s.commitSlot .abandoned).slot s.commit.target).state = s.commit.previous := by
  have restored : s.commitSlot .abandoned = s.onSlot s.commit.target fun x => { x with state := s.commit.previous } :=
    if_pos h
  rw [restored, State.slot_onSlot_same]

/-! ### Page writes -/

theorem length_stagedPage (s : State) (id : SlotId) (n : Nat) : (s.stagedPage id n).length = 256 := by
  rw [State.stagedPage, List.length_map, List.length_range]
  rfl

theorem getD_stagedPage (s : State) (id : SlotId) (n j : Nat) (hj : j < 256) : (s.stagedPage id n).getD j 0 =
    if 256 * n + j < id.imageSize then Memory.read stagingDefault s.staging (256 * n + j) else 255 := by
  have size : Config.pageSize = 256 := rfl
  unfold State.stagedPage
  rw [size, List.getD_eq_getElem?_getD, List.getElem?_map, List.getElem?_range hj]
  rfl

/-- A commit's state with its page counted, before an abandon or the grant (R68). -/
def State.pageCounted (s : State) : State :=
  { s.freePort with commit := { s.commit with
      state := .waiting
      written := s.commit.written + 1
      next := if s.commit.written + 1 < s.commit.target.pages then s.commit.next + 1 else 0 } }

theorem State.committed_pageCounted (s : State) : s.Committed s.pageCounted := rfl

theorem State.endPageWrite_eq (s : State) : ∃ m : Memory,
    s.writeArray (s.commit.target.base + 256 * s.commit.next) (s.stagedPage s.commit.target s.commit.next) =
        { s with array := m } ∧
      s.endPageWrite = if s.commit.abandon then (State.pageCounted { s with array := m } |>.endCommit .abandoned).grant
        else (State.pageCounted { s with array := m }).grant :=
  ⟨_, rfl, rfl⟩

/-- Settles O33: the page's bytes, then the abandon or the grant, neither of which touches the array. -/
theorem pageWritten : Obligations.PageWritten := by
  intro s age canonical port lasted
  have taken : exec .pageWriteEnd s = .next s.endPageWrite := by
    show Host.Outcome.next (s.endUnitOf PortWork.isPageWrite []) = _
    rw [State.endUnitOf_due port lasted rfl, State.endUnit, port]
  have bytes := State.writeArray_spec canonical (s.commit.target.base + 256 * s.commit.next)
    (length_stagedPage s s.commit.target s.commit.next)
  obtain ⟨m, written, ended⟩ := s.endPageWrite_eq
  rw [written] at bytes
  let w : State := { s with array := m }
  have frame : w.Committed s.endPageWrite := by
    rw [ended]
    split
    · exact (w.committed_pageCounted.endCommit _).grant
    · exact w.committed_pageCounted.grant
  have array : s.endPageWrite.array = m := by rw [frame.eq]
  have record : s.endPageWrite.commit.written = s.commit.written + 1 ∧ s.endPageWrite.commit.target = s.commit.target := by
    rw [ended]
    split
    · rw [(State.endCommit_grant_spec w.pageCounted .abandoned).1]
      exact ⟨rfl, rfl⟩
    · rw [w.pageCounted.commit_grant.1]
      exact ⟨rfl, rfl⟩
  refine ⟨s.endPageWrite, taken, fun j hj => ?_, fun a ha => ?_, record.1, record.2, ?_, fun abandon => ?_⟩
  · rw [array]
    exact (bytes.1 j hj).trans (getD_stagedPage _ _ _ _ hj)
  · rw [array]
    exact bytes.2 a ha
  · rw [array]
    exact frame.eq
  · rw [ended, if_pos abandon]
    obtain ⟨commit, flag, -, slots⟩ := State.endCommit_grant_spec w.pageCounted .abandoned
    refine ⟨by rw [commit], flag, ?_⟩
    rw [(slots s.commit.target).1]
    exact State.slot_commitSlot_spoiled w.pageCounted (.inr ⟨rfl, Nat.succ_ne_zero _⟩)

/-! ### Page verifies -/

/-- A commit's state with the port free again, before the outcome of a page verify (R68). -/
def State.verifyDone (s : State) : State := { s.freePort with commit := { s.commit with state := .waiting } }

theorem State.endPageVerify_abandoned (h : s.commit.abandon = true) (u : Upset) :
    s.endPageVerify u = (s.verifyDone.endCommit .abandoned).grant := if_pos h

theorem State.endPageVerify_failed {u : Upset} (h : s.commit.abandon = false)
    (bad : delivered u (s.storedPage s.commit.target s.commit.next) ≠ s.stagedPage s.commit.target s.commit.next ∨
      s.commit.target.pages ≤ s.commit.next + 1 ∧ ¬ imageCrcOk s.commit.target (s.stagedImage s.commit.target) = true) :
    s.endPageVerify u = (s.verifyDone.endCommit .verifyFail).grant := by
  unfold State.endPageVerify
  dsimp only
  rw [if_neg (by rw [h]; nofun)]
  split
  · rfl
  next equal =>
    obtain ⟨last, crc⟩ := bad.resolve_left equal
    rw [if_neg (Nat.not_lt.2 last), if_neg crc]
    rfl

theorem State.endPageVerify_next {u : Upset} (h : s.commit.abandon = false)
    (equal : delivered u (s.storedPage s.commit.target s.commit.next) = s.stagedPage s.commit.target s.commit.next)
    (more : s.commit.next + 1 < s.commit.target.pages) : s.endPageVerify u =
      State.grant { s.freePort with commit := { s.commit with state := .waiting, next := s.commit.next + 1 } } := by
  unfold State.endPageVerify
  dsimp only
  rw [if_neg (by rw [h]; nofun), if_neg (not_not_intro equal), if_pos more]

theorem State.endPageVerify_ok {u : Upset} (h : s.commit.abandon = false)
    (equal : delivered u (s.storedPage s.commit.target s.commit.next) = s.stagedPage s.commit.target s.commit.next)
    (last : s.commit.target.pages ≤ s.commit.next + 1)
    (crc : imageCrcOk s.commit.target (s.stagedImage s.commit.target) = true) :
    s.endPageVerify u = (s.verifyDone.endCommit .ok).grant := by
  unfold State.endPageVerify
  dsimp only
  rw [if_neg (by rw [h]; nofun), if_neg (not_not_intro equal), if_neg (Nat.not_lt.2 last), if_pos crc]
  rfl

theorem State.committed_endPageVerify (s : State) (u : Upset) : s.Committed (s.endPageVerify u) := by
  have begun : s.Committed s.verifyDone := rfl
  unfold State.endPageVerify
  dsimp only
  split
  · exact (begun.endCommit _).grant
  · split
    · exact (begun.endCommit _).grant
    · split
      · exact State.Committed.grant rfl
      · split
        · exact (begun.endCommit _).grant
        · exact (begun.endCommit _).grant

/-- Settles O34, outcome by outcome. -/
theorem pageVerified : Obligations.PageVerified := by
  intro s age u port lasted id equal good
  have taken : exec (.pageVerifyEnd u) s = .next (s.endPageVerify u) := by
    show Host.Outcome.next (s.endUnitOf PortWork.isPageVerify u) = _
    rw [State.endUnitOf_due port lasted rfl, State.endUnit, port]
  refine ⟨s.endPageVerify u, taken, (s.committed_endPageVerify u).eq, fun abandon => ?_, fun going bad => ?_,
    fun going same more => ?_, fun going same last crc => ?_⟩
  · rw [State.endPageVerify_abandoned abandon]
    obtain ⟨commit, ended, notices, slots⟩ := State.endCommit_grant_spec s.verifyDone .abandoned
    refine ⟨by rw [commit], by rw [commit], by rw [commit], ended, ?_, notices⟩
    rw [(slots id).1]
    split
    next untouched => exact State.slot_commitSlot_untouched s.verifyDone untouched
    next written => exact State.slot_commitSlot_spoiled s.verifyDone (.inr ⟨rfl, written⟩)
  · rw [State.endPageVerify_failed going bad]
    obtain ⟨commit, ended, notices, slots⟩ := State.endCommit_grant_spec s.verifyDone .verifyFail
    refine ⟨by rw [commit], by rw [commit], ended, ?_, notices⟩
    rw [(slots id).1]
    exact State.slot_commitSlot_spoiled s.verifyDone (.inl rfl)
  · rw [State.endPageVerify_next going same more]
    let v : State := { s.freePort with commit := { s.commit with state := .waiting, next := s.commit.next + 1 } }
    obtain ⟨record, idle⟩ := v.commit_grant
    obtain ⟨notices, flag⟩ : v.grant.storeNotices = v.storeNotices ∧ v.grant.commitEnded = v.commitEnded := by
      rw [v.grant_eq]
      exact ⟨rfl, rfl⟩
    refine ⟨record, fun h => absurd (idle.1 h) nofun, flag, notices, v.cache_grant, fun j => (v.slot_grant j).1,
      fun scan loads refreshes work written => ?_⟩
    · have granted : v.grant = { v with port := some ⟨.commitVerify, 0⟩, commit := { v.commit with state := .verifying } } := by
        rw [State.grant_commit_of_waiting (s := v) rfl scan loads refreshes work rfl]
        exact if_neg (Nat.not_lt.2 written)
      rw [granted]
      exact ⟨rfl, rfl⟩
  · rw [State.endPageVerify_ok going same last crc]
    obtain ⟨commit, ended, notices, slots⟩ := State.endCommit_grant_spec s.verifyDone .ok
    have slot := s.verifyDone.slot_commitSlot_ok
    refine ⟨by rw [commit], by rw [commit], ended, ?_, ?_, ?_, fun quiet => ?_, notices⟩
    · rw [(slots id).1]
      exact congrArg Slot.state slot
    · rw [(slots id).1]
      exact congrArg Slot.boot slot
    · rw [(slots id).1]
      exact congrArg Slot.label slot
    · rw [(slots id).2 (quiet 0)]
      exact congrArg Slot.mark slot

/-! ### Held requests -/

theorem mem_take_completed (l tail : List Reply) :
    ∀ r ∈ ((l.map fun r : Reply => { r with complete := true }) ++ tail).take l.length, r.complete = true := by
  intro r hr
  rw [List.take_append_of_le_length (by simp)] at hr
  obtain ⟨q, -, rfl⟩ := List.mem_map.1 (List.mem_of_mem_take hr)
  rfl

/-- The hold buffer's turn leaves the replies before its own. -/
theorem State.takeHoldBuffer_replies (s : State) : ∃ tail, s.takeHoldBuffer.replies = s.replies ++ tail := by
  by_cases taken : s.holdBuf ≠ none ∧ s.held = none ∧ s.replies.length < 8
  · obtain ⟨r, replies, -⟩ := State.takeHoldBuffer_adds taken.1 taken.2.1 taken.2.2
    exact ⟨[r], replies⟩
  · have stays : s.takeHoldBuffer = s := by
      by_cases empty : s.holdBuf = none
      · exact State.takeHoldBuffer_none s empty
      · by_cases held : s.held = none
        · exact State.takeHoldBuffer_full (Nat.not_lt.1 fun room => taken ⟨empty, held, room⟩)
        · exact State.takeHoldBuffer_held s held
    exact ⟨[], by rw [stays, List.append_nil]⟩

theorem State.takeHoldBuffer_idle (h : s.holdBuf = none ∨ 8 ≤ s.replies.length) : s.takeHoldBuffer = s :=
  h.elim (State.takeHoldBuffer_none s) State.takeHoldBuffer_full

/-- The fields of a state after a grant that no grant touches. -/
theorem State.grant_kept (s : State) : s.grant.array = s.array ∧ s.grant.staging = s.staging ∧ s.grant.held = s.held ∧
    s.grant.holdBuf = s.holdBuf ∧ s.grant.replies = s.replies ∧ s.grant.engineWork = s.engineWork := by
  rw [s.grant_eq]
  exact ⟨rfl, rfl, rfl, rfl, rfl, rfl⟩

theorem length_delivered (u : Upset) (l : List Byte) : (delivered u l).length = l.length := by
  rw [delivered, List.length_map, List.length_range]

theorem length_slotImage (s : State) (id : SlotId) : (s.slotImage id).length = id.imageSize :=
  Memory.length_readAll ..

/-- Settles O36: the copy and the completed reply, then the hold buffer's turn. -/
theorem fetchCompletes : Obligations.FetchCompletes := by
  intro s id offset age u canonical port lasted work
  let v : State := State.endHeld { (s.writeStaging offset (delivered u (s.slotImage id))).freePort with engineWork := none }
  have taken : exec (.fetchComplete u) s = .next v.grant.takeHoldBuffer := by
    show Host.Outcome.next (s.endHeldUnitOf s.isFetch u) = _
    rw [State.endHeldUnitOf_due port lasted (by unfold State.isFetch; dsimp only; rw [work]), State.endUnit, port]
    dsimp only
    rw [work]
    rfl
  obtain ⟨array, staging, held, buffer, replies, -⟩ := v.grant_kept
  have room : v.grant.replies.length = s.replies.length := by rw [replies]; exact List.length_map ..
  refine ⟨_, taken, ?_, ?_, fun waits free => ?_, fun idle => ?_⟩
  · obtain ⟨tail, h⟩ := v.grant.takeHoldBuffer_replies
    rw [h, replies]
    exact mem_take_completed s.replies tail
  · rw [State.takeHoldBuffer_array, array]
    rfl
  · obtain ⟨r, h, gone, -⟩ := State.takeHoldBuffer_adds (s := v.grant) (by rw [buffer]; exact waits) held (by rw [room]; exact free)
    refine ⟨gone, ?_⟩
    rw [h, List.length_append, room]
    rfl
  · rw [State.takeHoldBuffer_idle (s := v.grant) (by rw [buffer, room]; exact idle), staging]
    have size : (delivered u (s.slotImage id)).length = id.imageSize := by rw [length_delivered, length_slotImage]
    obtain ⟨bytes, others⟩ := Memory.writeAll_spec canonical offset (delivered u (s.slotImage id))
    rw [size] at bytes others
    refine ⟨bytes, others, ?_, room⟩
    rw [replies]
    exact v.grant_eq

/-- The state of an erase whose page is written, before the grant (R73). -/
def State.pageErased (s : State) (id : SlotId) (page : Nat) : State :=
  if page + 1 < id.pages then { s.freePort with engineWork := some (.erase id (page + 1)) }
  else (State.endHeld { s.freePort with engineWork := none }).setMark id .blank

theorem State.endErasePage_eq (s : State) (id : SlotId) (page : Nat) : ∃ m : Memory,
    s.writeArray (id.base + 256 * page) (List.replicate 256 255) = { s with array := m } ∧
      s.endErasePage id page = (State.pageErased { s with array := m } id page).grant := by
  refine ⟨_, rfl, ?_⟩
  unfold State.endErasePage State.pageErased
  dsimp only
  split <;> rfl

/-- What an erased page leaves, beside the port (R73). -/
theorem State.pageErased_eq (s : State) (id : SlotId) (page : Nat) : s.pageErased id page = { s with
    slots := (s.pageErased id page).slots, port := none, engineWork := (s.pageErased id page).engineWork
    held := (s.pageErased id page).held, replies := (s.pageErased id page).replies } ∧
      (s.pageErased id page).replies.length = s.replies.length := by
  unfold State.pageErased
  split
  · exact ⟨rfl, rfl⟩
  · exact ⟨rfl, List.length_map ..⟩

/-- Settles O35: the page, then the next page's grant or the completed reply and the hold buffer's turn. -/
theorem erasePageWritten : Obligations.ErasePageWritten := by
  intro s id page age canonical port lasted work
  have bytes := State.writeArray_spec canonical (id.base + 256 * page)
    (List.length_replicate : (List.replicate 256 (255 : Byte)).length = 256)
  have filled (j : Nat) (hj : j < 256) : (List.replicate 256 (255 : Byte)).getD j 0 = 255 := by
    rw [List.getD_eq_getElem?_getD, List.getElem?_replicate, if_pos hj]
    rfl
  obtain ⟨m, written, ended⟩ := s.endErasePage_eq id page
  rw [written] at bytes
  generalize List.replicate 256 (255 : Byte) = data at bytes filled
  let w : State := { s with array := m }
  have taken : exec .erasePageWriteEnd s = .next (w.pageErased id page).grant.takeHoldBuffer := by
    show Host.Outcome.next (s.endHeldUnitOf s.isErase []) = _
    rw [State.endHeldUnitOf_due port lasted (by unfold State.isErase; dsimp only; rw [work]), State.endUnit, port]
    dsimp only
    rw [work]
    exact congrArg (fun v : State => Host.Outcome.next v.takeHoldBuffer) ended
  have more (h : page + 1 < id.pages) : w.pageErased id page =
      { w.freePort with engineWork := some (.erase id (page + 1)) } := if_pos h
  have last (h : id.pages ≤ page + 1) : w.pageErased id page =
      (State.endHeld { w.freePort with engineWork := none }).setMark id .blank := if_neg (Nat.not_lt.2 h)
  obtain ⟨erased, count⟩ := w.pageErased_eq id page
  generalize w.pageErased id page = v at taken more last erased count
  obtain ⟨array, -, held, buffer, replies, engine⟩ := v.grant_kept
  have stored : v.grant.takeHoldBuffer.array = m := by rw [State.takeHoldBuffer_array, array, erased]
  have room : v.grant.replies.length = s.replies.length := by rw [replies, count]
  have waiting : v.grant.holdBuf = s.holdBuf := by rw [buffer, erased]
  have stays (h : page + 1 < id.pages ∧ s.held ≠ none ∨ s.holdBuf = none ∨ 8 ≤ s.replies.length) :
      v.grant.takeHoldBuffer = v.grant := by
    rcases h with ⟨h, busy⟩ | idle
    · refine State.takeHoldBuffer_held _ ?_
      rw [held, more h]
      exact busy
    · exact State.takeHoldBuffer_idle (by rw [waiting, room]; exact idle)
  refine ⟨_, taken, fun j hj => ?_, fun a ha => ?_, fun h => ?_, fun h busy => ?_, fun h => ⟨?_, fun idle => ?_, ?_⟩⟩
  · rw [stored]
    exact (bytes.1 j hj).trans (filled j hj)
  · rw [stored]
    exact bytes.2 a ha
  · rw [stays h]
    refine ⟨?_, room⟩
    rw [array, held, replies, engine]
    refine v.grant_eq.trans ?_
    rw [erased]
  · rw [stays (.inl ⟨h, busy⟩), engine, held, replies, more h]
    exact ⟨rfl, rfl, rfl⟩
  · obtain ⟨tail, ht⟩ := v.grant.takeHoldBuffer_replies
    rw [ht, replies, last h]
    exact mem_take_completed s.replies tail
  · rw [stays (.inr idle), engine, held]
    refine ⟨by rw [last h]; rfl, by rw [last h]; rfl, fun other => ?_⟩
    have unmarked := (v.slot_grant id).2 (by rw [last h]; nofun) (by
      rw [erased]
      exact other.imp (fun idle => by rw [idle]; nofun) fun ne => ne)
    rw [unmarked, last h, State.setMark, State.slot_onSlot_same]
  · intro waits free
    obtain ⟨r, hr, gone, -⟩ := State.takeHoldBuffer_adds (s := v.grant) (by rw [waiting]; exact waits)
      (by rw [held, last h]; rfl) (by rw [room]; exact free)
    refine ⟨gone, ?_⟩
    rw [hr, List.length_append, room]
    rfl

end

end Sys2Proof.Machine

/-! The replacement of a live set (R81, R106), the boot loads and the loads while RUNNING (R80, R88), and the end of a swap
(R82). -/

namespace Sys2Proof.Machine

set_option Elab.async false

section
variable {s t u : State} {i j : Fin 12} {k : Fin 16} {id : SourceId} {b : LoadBuffer}

/-! ### The feed sources of a screen reset -/

/-- Two feeds that differ in their sources alone. -/
def Feed.Sourced (y z : Feed) : Prop := { z with overload := y.overload, silent := y.silent, mismatch := y.mismatch } = y

theorem Feed.Sourced.eq {y z : Feed} (h : y.Sourced z) :
    z = { y with overload := z.overload, silent := z.silent, mismatch := z.mismatch } := by
  unfold Feed.Sourced at h
  exact congrArg (fun v : Feed => { v with overload := z.overload, silent := z.silent, mismatch := z.mismatch }) h

/-- What may differ after feed sources of one screen have been set: these sources and the alarm list. -/
structure State.Resets (s : State) (i : Fin 12) (t : State) : Prop where
  rest : { t with screens := s.screens, alarms := s.alarms } = s
  others : ∀ j, j ≠ i → t.screen j = s.screen j
  own : { t.screen i with feeds := (s.screen i).feeds } = s.screen i
  feeds : ∀ k, (s.feed i k).Sourced (t.feed i k)

theorem State.resets_self (s : State) (i : Fin 12) : s.Resets i s := ⟨rfl, fun _ _ => rfl, rfl, fun _ => rfl⟩

theorem State.Resets.eq (h : s.Resets i t) : t = { s with screens := t.screens, alarms := t.alarms } :=
  congrArg (fun v : State => { v with screens := t.screens, alarms := t.alarms }) h.rest

theorem State.Resets.screen_eq (h : s.Resets i t) : t.screen i = { s.screen i with feeds := (t.screen i).feeds } :=
  congrArg (fun v : Screen => { v with feeds := (t.screen i).feeds }) h.own

theorem State.Resets.onFeed (h : s.Resets i t) {f : Feed → Feed} (hf : ∀ y z : Feed, y.Sourced z → y.Sourced (f z)) :
    s.Resets i (t.onFeed i k f) where
  rest := h.rest
  others := fun j other => by rw [State.onFeed, State.screen_onScreen_other (h := other)]; exact h.others j other
  own := by rw [State.onFeed, State.screen_onScreen_same]; exact h.own
  feeds := fun q => by
    rw [State.feed_onFeed]
    split
    · exact hf _ _ (h.feeds q)
    · exact h.feeds q

theorem State.Resets.forceClear (h : s.Resets i t) (hid : id ∈ feedSources i) : s.Resets i (t.forceClear id) := by
  obtain ⟨x, l, eq, -⟩ := t.forceClear_eq id
  rw [eq]
  have kept : s.Resets i (t.setSource id x) := by
    obtain ⟨k, rfl | rfl | rfl⟩ := mem_feedSources.1 hid
    · exact h.onFeed (f := fun y => { y with overload := x }) fun _ _ h => h
    · exact h.onFeed (f := fun y => { y with silent := x }) fun _ _ h => h
    · exact h.onFeed (f := fun y => { y with mismatch := x }) fun _ _ h => h
  exact ⟨kept.rest, kept.others, kept.own, kept.feeds⟩

theorem State.resets_swapSources (s : State) (i : Fin 12) : s.Resets i (s.swapSources i) := by
  have steps : ∀ l : List SourceId, (∀ id ∈ l, id ∈ feedSources i) → ∀ u, s.Resets i u →
      s.Resets i (l.foldl State.forceClear u) := by
    intro l
    induction l with
    | nil => exact fun _ _ hu => hu
    | cons a l ih =>
      exact fun inside u hu => ih (fun id hid => inside id (List.mem_cons_of_mem _ hid)) _
        (hu.forceClear (inside a List.mem_cons_self))
  exact steps _ (fun _ hid => hid) s (s.resets_self i)

/-- A swap's resetting of the feed sources, source by source (R106). -/
theorem State.source_swapSources (s : State) (i : Fin 12) :
    (∀ id ∈ feedSources i, ((s.swapSources i).source id).state = .clear ∧ ((s.swapSources i).source id).count = 0 ∧
      ((s.swapSources i).source id).latched = (s.source id).latched) ∧
      ∀ id, id ∉ feedSources i → (s.swapSources i).source id = s.source id := by
  refine ⟨fun id hid => ?_, fun id outside => ?_⟩
  · have core : ((s.swapSources i).source id).core = { (s.source id).core with state := .clear, count := 0 } := by
      have reset := source_foldl (view := Source.core) (change := fun x => { x with state := .clear, count := 0 })
        (f := State.forceClear) (fun _ => rfl) (fun u a id2 => by
          split
          next same => rw [same]; exact u.source_forceClear_same a
          next other => rw [State.source_forceClear_other other]) (feedSources i) s id
      rwa [if_pos hid] at reset
    have state := congrArg Source.state core
    have count := congrArg Source.count core
    have latched := congrArg Source.latched core
    exact ⟨state, count, latched⟩
  · have unforced : ∀ l : List SourceId, id ∉ l → ∀ u : State, (l.foldl State.forceClear u).source id = u.source id := by
      intro l
      induction l with
      | nil => exact fun _ _ => rfl
      | cons a l ih =>
        intro outside u
        rw [List.mem_cons, not_or] at outside
        rw [List.foldl_cons, ih outside.2, State.source_forceClear_other outside.1]
    exact unforced _ outside s

/-! ### The replacement -/

theorem State.keepsScreens_sources (s : State) : KeepsScreens fun u => ∀ id, u.source id = s.source id :=
  ⟨fun _ _ _ hy hu id => (hy.tracked.source_setScreen id).trans (hu id)⟩

/-- The load buffer's content installed and the matrix rebuilt, on the state with the feed sources reset (R81). -/
def State.installLive (u : State) (i : Fin 12) (b : LoadBuffer) : State := (u.onScreen i fun x => x.install b).rebuild i

theorem State.installLive_keeps {P : State → Prop} (keeps : KeepsScreens P) (h : P u) : P (u.installLive i b) :=
  State.rebuild_keeps keeps (State.onScreen_keeps keeps h fun x => Screen.quiet_install x b)

theorem State.screen_installLive (u : State) (i : Fin 12) (b : LoadBuffer) : (u.installLive i b).screen i = { u.screen i with
    live := b.room, source := b.source, loadBuf := none, stale := false
    feeds := ((u.installLive i b).screen i).feeds } := by
  have rebuilt := State.screen_rebuild (u.onScreen i fun x => x.install b) i i
  rwa [State.screen_onScreen_same] at rebuilt

theorem Screen.feed_install (x : Screen) (b : LoadBuffer) (k : Fin 16) : (x.install b).feed k = (x.feed k).replaced := by
  have mapped := Screen.feed_mapFeeds (x := x) (h := fun _ y => y.replaced) (q := k)
  unfold Screen.install
  generalize (x.mapFeeds fun _ y => y.replaced) = z at mapped
  exact mapped

theorem State.feed_installLive (u : State) (i : Fin 12) (b : LoadBuffer) (k : Fin 16) :
    ((u.installLive i b).feed i k).folded = false ∧ ((u.installLive i b).feed i k).protect = ⟨0, 0, 0⟩ ∧
      ((u.installLive i b).feed i k).biquads = zeroBiquads ∧ ((u.installLive i b).feed i k).delay = zeroDelay ∧
      ((u.installLive i b).feed i k).meter = (u.feed i k).meter := by
  have installed : (u.onScreen i fun x => x.install b).feed i k = (u.feed i k).replaced := by
    rw [State.feed_onScreen, if_pos rfl, Screen.feed_install]
    rfl
  unfold State.installLive
  rw [State.feed_rebuild, if_pos rfl, installed]
  dsimp only [Feed.replaced]
  exact ⟨rfl, rfl, rfl, rfl, rfl⟩

/-- What a replacement leaves of the screen, of the feeds, of the sources and of the rest (R50, R81, R106). -/
theorem State.replaceLive_spec (s : State) (i : Fin 12) (b : LoadBuffer) :
    (s.replaceLive i b).screen i = { s.screen i with
        live := b.room, source := b.source, loadBuf := none, stale := false
        feeds := ((s.replaceLive i b).screen i).feeds } ∧
      (∀ j, j ≠ i → (s.replaceLive i b).screen j = s.screen j) ∧
      (∀ k, ((s.replaceLive i b).feed i k).folded = false ∧ ((s.replaceLive i b).feed i k).protect = ⟨0, 0, 0⟩ ∧
        ((s.replaceLive i b).feed i k).biquads = zeroBiquads ∧ ((s.replaceLive i b).feed i k).delay = zeroDelay ∧
        ((s.replaceLive i b).feed i k).meter = (s.feed i k).meter) ∧
      (∀ id ∈ feedSources i, ((s.replaceLive i b).source id).state = .clear ∧ ((s.replaceLive i b).source id).count = 0 ∧
        ((s.replaceLive i b).source id).latched = (s.source id).latched) ∧
      (∀ id, id ∉ feedSources i → (s.replaceLive i b).source id = s.source id) ∧
      s.replaceLive i b = { s with screens := (s.replaceLive i b).screens, alarms := (s.replaceLive i b).alarms } := by
  have unfolded : s.replaceLive i b = (s.swapSources i).installLive i b := rfl
  have resets := s.resets_swapSources i
  obtain ⟨inside, outside⟩ := s.source_swapSources i
  rw [unfolded]
  generalize s.swapSources i = u at resets inside outside
  have own := u.screen_installLive i b
  have feeds := u.feed_installLive i b
  have sources : ∀ id, (u.installLive i b).source id = u.source id :=
    State.installLive_keeps (b := b) u.keepsScreens_sources fun _ => rfl
  have others (j : Fin 12) (h : j ≠ i) : (u.installLive i b).screen j = u.screen j :=
    (State.screen_onScreen_other (h := h) ..).trans (State.screen_onScreen_other (h := h) ..)
  have screened : u.Screened (u.installLive i b) := State.installLive_keeps u.keepsScreens_screened rfl
  generalize u.installLive i b = w at own feeds sources others screened
  have alarms : w.alarms = u.alarms := by rw [screened.eq]
  have meter (k : Fin 16) : (u.feed i k).meter = (s.feed i k).meter := by rw [(resets.feeds k).eq]
  refine ⟨?_, fun j h => (others j h).trans (resets.others j h), fun k => ?_, fun id hid => ?_,
    fun id hid => (sources id).trans (outside id hid), ?_⟩
  · refine own.trans ?_
    exact congrArg (fun x : Screen => { x with
      live := b.room, source := b.source, loadBuf := none, stale := false, feeds := (w.screen i).feeds }) resets.screen_eq
  · rw [← meter]
    exact feeds k
  · rw [sources]
    exact inside id hid
  · rw [alarms]
    refine screened.eq.trans ?_
    exact congrArg (fun v : State => { v with screens := w.screens }) resets.eq

/-- A screen's fade in after its replacement, with the mute gain's target recomputed (R81). -/
def Screen.swapped (x : Screen) (d : Device) : Screen :=
  Screen.recompute d { x.setStage .fadingIn with phase := .fadingIn, fadeIn := 0, muteZero := false }

theorem Screen.swapped_eq (x : Screen) (d : Device) : x.swapped d = { x with
    running := (x.swapped d).running, phase := .fadingIn, fadeIn := 0, muteZero := false, mute := (x.swapped d).mute } := by
  unfold Screen.swapped
  rw [Screen.recompute_eq]
  rfl

theorem State.onScreen_recomputeMute (s : State) (i : Fin 12) (f : Screen → Screen) :
    (s.onScreen i f).recomputeMute i = s.setScreen i ((f (s.screen i)).recompute s.device) :=
  State.recomputeMute_setScreen s i (f (s.screen i))

theorem State.swapLive_eq (h : (s.screen i).loadBuf = some b) : s.swapLive i =
    (s.replaceLive i b).setScreen i (((s.replaceLive i b).screen i).swapped (s.replaceLive i b).device) := by
  unfold State.swapLive
  rw [h]
  exact State.onScreen_recomputeMute ..

/-- Settles O30: the replacement, then the fade in. -/
theorem liveSetReplaced : Obligations.LiveSetReplaced := by
  intro s i b phase zero buffer
  have due : (s.screen i).swapDue = true := by
    unfold Screen.swapDue
    rw [zero, phase]
    rfl
  have taken := (if_pos due : s.takeMuteZero i = _).trans (State.swapLive_eq buffer)
  obtain ⟨own, others, feeds, inside, outside, frame⟩ := s.replaceLive_spec i b
  generalize s.replaceLive i b = v at taken own others feeds inside outside frame
  let t := v.setScreen i ((v.screen i).swapped v.device)
  have fields : t.screen i = _ := (State.screen_setScreen_same ..).trans (Screen.swapped_eq (v.screen i) v.device)
  have source (id : SourceId) : t.source id = v.source id := by
    refine State.source_setScreen _ _ _ ?_ ?_ ?_ ?_ ?_ ?_ ?_ id
    all_goals rw [Screen.swapped_eq]
    all_goals exact fun _ => rfl
  have feed (k : Fin 16) : t.feed i k = v.feed i k := by
    show (t.screen i).feed k = _
    rw [fields]
    rfl
  refine ⟨t, congrArg Host.Outcome.next taken, ?_, ?_, ?_, ?_, ?_, ?_, ?_, ?_, fun k => ?_, fun id hid => ?_,
    fun id hid => ?_, fun j h => ?_, ?_⟩
  any_goals rw [fields]
  any_goals rw [own]
  · rw [feed]
    exact feeds k
  · rw [source]
    exact inside id hid
  · rw [source]
    refine outside id fun fed => ?_
    obtain ⟨k, rfl | rfl | rfl⟩ := mem_feedSources.1 fed
    all_goals exact absurd (mem_screenSources.1 hid) (by nofun)
  · exact (State.screen_setScreen_other (h := h) ..).trans (others j h)
  · exact congrArg (fun v : State => { v with screens := t.screens }) frame

/-! ### Preset loads -/

/-- A grant leaves a screen whose load does not wait. -/
theorem State.screen_grant_of_idle (h : (s.screen j).loadWaits = false) : s.grant.screen j = s.screen j := by
  have same {t : State} (h : t.screens = s.screens) : t.screen j = s.screen j :=
    congrArg (fun v : Vector Screen 12 => v[j]) h
  rcases s.grant_cases with g | ⟨_, g | ⟨_, ⟨i, found, g⟩ | ⟨_, ⟨f, rest, _, g⟩ | ⟨_, ⟨w, _, g⟩ | ⟨_, _, g⟩⟩⟩⟩⟩ <;> rw [g]
  · exact same rfl
  · have waits : (s.screen i).loadWaits = true := by
      unfold State.findScreen at found
      simpa using List.find?_some found
    have other : j ≠ i := by
      rintro rfl
      rw [h] at waits
      cases waits
    rw [State.screen_withPort]
    exact State.screen_onScreen_other s i j _ other
  · exact same rfl
  · unfold State.grantEngine
    dsimp only
    split <;> exact same rfl
  · unfold State.grantCommit
    dsimp only
    split
    · split <;> exact same rfl
    · exact same rfl

/-- A screen that fades out (R81). -/
def Screen.fadedOut (x : Screen) (d : Device) : Screen :=
  Screen.recompute d { x.setStage .fadingOut with phase := .fadingOut, muteZero := false }

theorem Screen.fadedOut_eq (x : Screen) (d : Device) : x.fadedOut d = { x with
    running := x.running.map fun o => { o with stage := .fadingOut }, phase := .fadingOut, muteZero := false
    mute := (x.fadedOut d).mute } ∧ (x.fadedOut d).mute.target = 0 ∧ (x.fadedOut d).mute.current = x.mute.current := by
  have target : muteTarget d { x.setStage .fadingOut with phase := .fadingOut, muteZero := false } = 0 := by
    rw [muteTarget_eq]
    exact if_pos (.inr (.inr rfl))
  unfold Screen.fadedOut
  rw [Screen.recompute_eq, target]
  refine ⟨rfl, ?_, ?_⟩
  · dsimp only
    split
    next same => exact same.symm
    · rfl
  · dsimp only
    split <;> rfl

theorem State.enterFadeOut_eq (s : State) (i : Fin 12) :
    s.enterFadeOut i = s.setScreen i ((s.screen i).fadedOut s.device) := State.onScreen_recomputeMute ..

/-- What the device's becoming RUNNING leaves (R60, R88). -/
theorem State.becomeRunning_spec (s : State) :
    s.becomeRunning = { s with device := .running, screens := s.becomeRunning.screens } ∧
      ∀ j, s.becomeRunning.screen j = (s.screen j).recompute .running := by
  refine ⟨?_, fun j => ?_⟩
  · let v : State := { s with device := .running }
    have screened : v.Screened s.becomeRunning :=
      State.forScreens_keeps (fun _ _ hu => State.recomputeMute_keeps v.keepsScreens_screened hu) rfl
    exact screened.eq
  · exact (State.forScreens_each (f := fun i t => State.recomputeMute t i) (common := State.device) (view := State.screen)
      (next := fun _ d x => x.recompute d) (fun _ _ => rfl)
      (fun i u j => (u.screen_onScreen i j _).trans (if_ctx_congr .rfl (fun e => by rw [e]) fun _ => rfl)) { s with device := .running }).2 j

/-- Whether a screen has an operation running decides the end of the start-up (R88). -/
theorem State.bootDone_of_busy (h : (s.screen j).running ≠ none) : s.bootDone = s := by
  have found : (s.findScreen fun x => x.running.isSome).isSome = true :=
    List.find?_isSome.2 ⟨j, List.mem_finRange j, Option.isSome_iff_ne_none.2 h⟩
  exact if_pos found

theorem State.bootDone_of_idle (h : ∀ j, (s.screen j).running = none) : s.bootDone = s.becomeRunning := by
  have none_found : (s.findScreen fun x => x.running.isSome) = none :=
    List.find?_eq_none.2 fun j _ => by simp [h j]
  exact if_neg (by rw [none_found]; nofun)

/-- The end of the start-up leaves all but the mute gains. -/
theorem State.bootDone_screen (s : State) (j : Fin 12) :
    s.bootDone.screen j = { s.screen j with mute := (s.bootDone.screen j).mute } ∧
      (s.bootDone.screen j).mute.current = (s.screen j).mute.current ∧
      s.bootDone = { s with device := s.bootDone.device, screens := s.bootDone.screens } := by
  unfold State.bootDone
  split
  · exact ⟨rfl, rfl, rfl⟩
  · obtain ⟨frame, screens⟩ := s.becomeRunning_spec
    rw [screens j, Screen.recompute_eq]
    refine ⟨rfl, ?_, ?_⟩
    · dsimp only
      split <;> rfl
    · have device : s.becomeRunning.device = .running := by rw [frame]
      rw [device]
      exact frame

theorem Screen.recompute_target (x : Screen) (d : Device) : (x.recompute d).mute.target = muteTarget d x := by
  unfold Screen.recompute
  split
  next same => exact same.symm
  · rfl

/-- The end of a load while STARTING: the result is installed at once (R88). -/
theorem State.endLoad_starting {n : Fin 4} {st : Stage} {w : Upset} (starting : s.device = .starting)
    (loads : (s.screen i).running = some ⟨.slot n, st⟩)
    (result : loadResult (.room i n) n (delivered w (s.slotImage (.room i n))) = b) : s.endLoad i w =
      (s.freePort.installBoot i b).grant := by
  unfold State.endLoad
  rw [loads]
  dsimp only
  rw [if_pos starting, result]

/-- The end of a load while RUNNING: the load buffer is filled and the screen fades out (R80). -/
theorem State.endLoad_running {n : Fin 4} {st : Stage} {w : Upset} (running : s.device = .running)
    (loads : (s.screen i).running = some ⟨.slot n, st⟩)
    (result : loadResult (.room i n) n (delivered w (s.slotImage (.room i n))) = b) : s.endLoad i w =
      (s.freePort.setScreen i (Screen.fadedOut { s.screen i with loadBuf := some b } s.device)).grant := by
  unfold State.endLoad
  rw [loads]
  dsimp only
  rw [if_neg (by rw [running]; nofun), result, State.enterFadeOut_eq, State.onScreen, State.screen_setScreen_same,
    State.setScreen_setScreen]
  rfl

/-- The end of a boot operation leaves its screen but for the operation and the mute gain. -/
theorem State.screen_booted (s : State) (i : Fin 12) :
    let v := s.onScreen i fun x => { x with running := none }
    v.bootDone.grant.screen i = { s.screen i with running := none, mute := (v.bootDone.screen i).mute } ∧
      (v.bootDone.screen i).mute.current = (s.screen i).mute.current := by
  intro v
  have own : v.screen i = { s.screen i with running := none } := State.screen_onScreen_same ..
  obtain ⟨booted, current, -⟩ := v.bootDone_screen i
  have idle : (v.bootDone.screen i).running = none := by rw [booted, own]
  rw [State.screen_grant_of_idle (by unfold Screen.loadWaits; rw [idle]), current, own]
  refine ⟨?_, rfl⟩
  rw [own] at booted
  exact booted

/-- A boot load installed: its screen with the content live and no operation (R88). -/
theorem State.screen_bootInstalled (s : State) (i : Fin 12) (b : LoadBuffer) :
    ∃ feeds mute, (s.installBoot i b).grant.screen i = { s.screen i with
      live := b.room, source := b.source, loadBuf := none, stale := false, running := none, feeds := feeds, mute := mute } := by
  obtain ⟨replaced, -⟩ := s.replaceLive_spec i b
  obtain ⟨booted, -⟩ := (s.replaceLive i b).screen_booted i
  rw [replaced] at booted
  exact ⟨_, _, booted⟩

/-- Settles O29, by the device's state. -/
theorem presetLoadEnds : Obligations.PresetLoadEnds := by
  intro s i n st age u port lasted loads
  obtain ⟨b, image⟩ : ∃ b, (if imageCrcOk (.room i n) (delivered u (s.slotImage (.room i n))) then
    LoadBuffer.mk (roomOf (delivered u (s.slotImage (.room i n)))) (.slot n) else ⟨RoomSet.safe, .safe⟩) = b := ⟨_, rfl⟩
  rw [image]
  have result : loadResult (.room i n) n (delivered u (s.slotImage (.room i n))) = b := image
  dsimp only
  have taken : exec (.presetLoadEnd u) s = .next (s.endLoad i u) := by
    show Host.Outcome.next (s.endUnitOf PortWork.isLoad u) = _
    rw [State.endUnitOf_due port lasted rfl, State.endUnit, port]
  refine ⟨fun running => ?_, fun starting => ?_⟩
  · let x : Screen := { s.screen i with loadBuf := some b }
    let v := s.freePort.setScreen i (x.fadedOut s.device)
    have ended : s.endLoad i u = v.grant := State.endLoad_running running loads result
    obtain ⟨faded, -, -⟩ := x.fadedOut_eq s.device
    have own : v.screen i = x.fadedOut s.device := State.screen_setScreen_same ..
    have operation : (v.screen i).running = some ⟨.slot n, .fadingOut⟩ := by
      rw [own, faded]
      show (s.screen i).running.map _ = _
      rw [loads]
      rfl
    have kept : v.grant.screen i = x.fadedOut s.device := by
      rw [State.screen_grant_of_idle (by unfold Screen.loadWaits; rw [operation]; rfl), own]
    refine ⟨v.grant, by rw [taken, ended], ?_, ?_, ?_, ?_, ?_, ?_, ?_, fun j other => ?_, v.grant_eq⟩
    · rw [kept, faded]
    · rw [kept, ← own, operation]
    all_goals try rw [kept, faded]
    have same : v.screen j = s.screen j := State.screen_setScreen_other (h := other) ..
    rw [← same]
    exact v.screen_grant j
  · have ended := State.endLoad_starting starting loads result
    obtain ⟨ys, m, installed⟩ := s.freePort.screen_bootInstalled i b
    unfold State.installBoot at ended installed
    obtain ⟨replaced, others, feeds, -, outside, frame⟩ := s.freePort.replaceLive_spec i b
    generalize s.freePort.replaceLive i b = r at ended installed replaced others feeds outside frame
    let v := r.onScreen i fun x => { x with running := none }
    have own : v.screen i = { r.screen i with running := none } := State.screen_onScreen_same ..
    have other (j : Fin 12) (h : j ≠ i) : v.screen j = s.screen j :=
      (State.screen_onScreen_other (h := h) ..).trans (others j h)
    have started : v.device = .starting := (congrArg State.device frame).trans starting
    obtain ⟨-, -, rest⟩ := v.bootDone_screen i
    obtain ⟨booted, current⟩ := r.screen_booted i
    have mute (j : Fin 12) : (v.bootDone.grant.screen j).mute = (v.bootDone.screen j).mute := by
      rw [v.bootDone.screen_grant j]
    have device : v.bootDone.grant.device = v.bootDone.device := by rw [v.bootDone.grant_eq]
    have before (j : Fin 12) : (v.screen j).mute = (s.screen j).mute ∧ (v.screen j).muted = (s.screen j).muted ∧
        (v.screen j).phase = (s.screen j).phase := by
      by_cases h : j = i
      · subst h
        rw [own, replaced]
        exact ⟨rfl, rfl, rfl⟩
      · rw [other j h]
        exact ⟨rfl, rfl, rfl⟩
    refine ⟨v.bootDone.grant, by rw [taken, ended], ?_, ?_, ?_, ?_, ?_, ?_, ?_, fun k => ?_, fun ⟨j, h, busy⟩ => ?_,
      fun quiet => ?_, ?_⟩
    · rw [installed]
    · rw [installed]
    · rw [installed]
    · rw [installed]
    · rw [installed]
    · rw [booted, replaced]
      rfl
    · rw [booted, current, replaced]
      rfl
    · have feed : v.bootDone.grant.feed i k = r.feed i k := by
        show (v.bootDone.grant.screen i).feed k = _
        rw [booted]
        rfl
      rw [feed]
      obtain ⟨folded, protect, biquads, delay, -⟩ := feeds k
      exact ⟨folded, protect, biquads, delay⟩
    · have stays : v.bootDone = v := State.bootDone_of_busy (j := j) (by rw [other j h]; exact busy)
      refine ⟨?_, fun j => ?_⟩
      · rw [device, stays, started]
      · rw [mute, stays, (before j).1]
    · have runs : v.bootDone = v.becomeRunning := State.bootDone_of_idle fun j => by
        by_cases h : j = i
        · rw [h, own]
        · rw [other j h]
          exact quiet j h
      obtain ⟨running, screens⟩ := v.becomeRunning_spec
      refine ⟨by rw [device, runs, running], fun j => ?_⟩
      rw [mute, runs, screens, Screen.recompute_target, muteTarget_eq, (before j).2.1, (before j).2.2]
      simp
    · have listed : v.bootDone.grant.alarms = v.alarms := by rw [v.bootDone.grant_eq, rest]
      have whole : v.bootDone.grant = { v with
          device := v.bootDone.grant.device, screens := v.bootDone.grant.screens, slots := v.bootDone.grant.slots
          port := v.bootDone.grant.port, refreshes := v.bootDone.grant.refreshes, commit := v.bootDone.grant.commit } := by
        rw [device]
        refine v.bootDone.grant_eq.trans ?_
        generalize v.bootDone.grant = w
        generalize v.bootDone = z at rest
        exact congrArg (fun q : State => { q with
          screens := w.screens, slots := w.slots, port := w.port, refreshes := w.refreshes, commit := w.commit }) rest
      have before : v = { s with screens := v.screens, port := none, alarms := v.alarms } :=
        congrArg (fun q : State => { q with screens := v.screens }) frame
      rw [listed]
      generalize v.bootDone.grant = w at whole
      refine whole.trans ?_
      generalize v = z at before
      exact congrArg (fun q : State => { q with
        device := w.device, screens := w.screens, slots := w.slots, port := w.port, refreshes := w.refreshes
        commit := w.commit, alarms := z.alarms }) before

/-! ### The end of a swap -/

theorem State.endSwap_fadeIn (s : State) (i : Fin 12) :
    (s.onScreen i fun x => { x with fadeIn := x.fadeIn + 1 }).endSwap i = s.endSwap i := by
  unfold State.endSwap
  rw [State.onScreen_onScreen, State.screen_onScreen_same]

/-- Settles O31: the count below 12, and the end at 12 by the pending operation. -/
theorem swapEnds : Obligations.SwapEnds := by
  intro s i fading
  refine ⟨fun early => ?_, fun n small count => ?_, ?_⟩
  · refine congrArg Host.Outcome.next (if_neg ?_)
    unfold Screen.swapEndDue Config.swapBlocks
    simp [early]
  · unfold State.fadeInStep State.takeSwapEnd
    rw [if_pos fading, State.screen_onScreen_same, if_neg, ← count]
    · rfl
    · unfold Screen.swapEndDue Config.swapBlocks
      simp [count, small]
  intro target x Ended
  let y : Screen := { s.screen i with running := none, phase := .none, fadeIn := 0, waiting := none }
  have recomputed : y.recompute s.device = x := by
    rw [Screen.recompute_eq, muteTarget_eq]
    show _ = x
    simp only [y, reduceCtorEq, or_false]
    rfl
  have idled : (s.onScreen i fun x => { x with running := none, phase := .none, fadeIn := 0, waiting := none }).recomputeMute i =
      s.setScreen i x := by
    rw [State.onScreen_recomputeMute, ← recomputed]
  have ended : Ended (s.endSwap i) := by
    refine ⟨fun waits => ?_, fun n waits port => ?_, fun waits => ?_⟩
    · unfold State.endSwap
      rw [waits, idled]
    · unfold State.endSwap
      rw [waits, idled]
      dsimp only
      rw [State.beginOp_slot_of_port (s := s.setScreen i x) n port, State.setScreen_setScreen, State.screen_setScreen_same]
    · let z : Screen := { x with running := some ⟨.safe, .fadingOut⟩, loadBuf := some ⟨RoomSet.safe, .safe⟩ }
      have began : s.endSwap i = s.setScreen i (z.fadedOut s.device) := by
        unfold State.endSwap
        rw [waits, idled]
        dsimp only
        unfold State.beginOp
        dsimp only
        rw [State.enterFadeOut_eq, State.onScreen_setScreen, State.screen_setScreen_same, State.setScreen_setScreen]
        rfl
      obtain ⟨faded, silent, current⟩ := z.fadedOut_eq s.device
      rw [began, State.screen_setScreen_same, silent, current]
      have level : z.mute.current = (s.screen i).mute.current := by
        show (if _ then _ else _ : Ramp).current = _
        split <;> rfl
      generalize z.fadedOut s.device = w at faded
      rw [faded]
      exact ⟨rfl, rfl, rfl, rfl, level, rfl⟩
  refine ⟨fun count => ?_, fun count => ⟨s.endSwap i, congrArg Host.Outcome.next (if_pos ?_), ended⟩⟩
  · have stepped : s.fadeInStep i = s.endSwap i := by
      unfold State.fadeInStep State.takeSwapEnd
      rw [if_pos fading, State.screen_onScreen_same, if_pos]
      exact State.endSwap_fadeIn s i
      unfold Screen.swapEndDue Config.swapBlocks
      simp [count, fading]
    rw [stepped]
    exact ended
  · unfold Screen.swapEndDue Config.swapBlocks
    simp [count, fading]

end

end Sys2Proof.Machine

/-! The cue lists: the edits, the tags and the reading of a list (R137 to R148). -/

namespace Sys2Proof.Machine

set_option Elab.async false

section
variable {s t : State} {i j : Fin 12} {m : Message} {x : Screen}

/-! ### The checks and fields of an edit -/

theorem State.editScreen_ok (running : s.device = .running) (screen : screenOf m.screen = some i)
    (unlocked : (s.screen i).showLock = false) : s.editScreen m = .ok i := by
  unfold State.editScreen
  rw [running, screen, if_neg nofun]
  exact if_neg (by rw [unlocked]; nofun)

theorem toBytes_byte (b : Byte) : toBytes 1 b.toNat = [b] := by
  simp [toBytes]

theorem Byte.toNat_lt_field (b : Byte) : b.toNat < 256 ^ 1 := b.isLt

/-- The two positions of a range in the body of CUE-TAG-RANGE (R183, R187). -/
theorem positionAt_range (f1 f2 : Frame) (b1 b2 : Byte) :
    positionAt (toBytes 3 f1.toNat ++ [b1] ++ toBytes 3 f2.toNat ++ [b2]) 0 = ⟨f1.toNat, b1.toNat⟩ ∧
      positionAt (toBytes 3 f1.toNat ++ [b1] ++ toBytes 3 f2.toNat ++ [b2]) 4 = ⟨f2.toNat, b2.toNat⟩ := by
  rw [← toBytes_byte b1, ← toBytes_byte b2]
  have first : fieldAt (toBytes 3 f1.toNat ++ toBytes 1 b1.toNat ++ toBytes 3 f2.toNat ++ toBytes 1 b2.toNat) 0 3 =
      f1.toNat := by
    rw [List.append_assoc, List.append_assoc]
    exact fieldAt_toBytes 3 _ _ (Frame.toNat_lt_field f1)
  have block : fieldAt (toBytes 3 f1.toNat ++ toBytes 1 b1.toNat ++ toBytes 3 f2.toNat ++ toBytes 1 b2.toNat) 3 1 =
      b1.toNat := by
    rw [List.append_assoc, List.append_assoc]
    exact fieldAt_toBytes_append _ _ 3 1 _ (length_toBytes ..) (Byte.toNat_lt_field b1)
  have second : fieldAt (toBytes 3 f1.toNat ++ toBytes 1 b1.toNat ++ toBytes 3 f2.toNat ++ toBytes 1 b2.toNat) 4 3 =
      f2.toNat := by
    rw [List.append_assoc]
    exact fieldAt_toBytes_append _ _ 4 3 _ (by simp) (Frame.toNat_lt_field f2)
  have last : fieldAt (toBytes 3 f1.toNat ++ toBytes 1 b1.toNat ++ toBytes 3 f2.toNat ++ toBytes 1 b2.toNat) 7 1 =
      b2.toNat :=
    fieldAt_toBytes_end _ 7 1 _ (by simp) (Byte.toNat_lt_field b2)
  exact ⟨congrArg₂ Position.mk first block, congrArg₂ Position.mk second last⟩

theorem fieldAt_id (id : Half) : fieldAt (toBytes 2 id.toNat) 0 2 = id.toNat := by
  have field := fieldAt_toBytes 2 id.toNat [] (Half.toNat_lt_field id)
  rwa [List.append_nil] at field

/-! ### CUE-INSERT -/

/-- The index of an insert does not read the tags. -/
theorem insertIndex_untagged (l : List Cue) (p : Position) :
    insertIndex (l.map fun d => { d with tagged := false }) p = insertIndex l p := by
  unfold insertIndex
  rw [List.takeWhile_map, List.length_map]
  rfl

/-- Settles O54: the tags cleared, then the cue in its place. -/
theorem cueInserted : Obligations.CueInserted := by
  intro s tag scr i id frame block flags action pa pb c ready running screen unlocked cue fresh pool room count old n
  let m : Message := ⟨0x0E, tag, scr, toBytes 2 id.toNat ++ toBytes 3 frame.toNat ++ [block, flags, action] ++
    toBytes 2 pa.toNat ++ toBytes 2 pb.toNat⟩
  have edits : s.editScreen m = .ok i := State.editScreen_ok running screen unlocked
  have new : ¬ ((s.screen i).cues.any fun d => decide (d.id = c.id)) = true := by
    simpa using fresh
  have fits : ¬ (s.freeCues = 0 ∨ Config.listCap ≤ (s.screen i).cues.length ∨
      Config.counterEnd ≤ (s.screen i).counter) := by
    unfold Config.listCap Config.counterEnd
    omega
  let x := (s.screen i).clearTags.insert c
  have index : insertIndex (s.screen i).cues c.pos = n := (insertIndex_untagged ..).symm
  refine ⟨s.setScreen i x, ?_, fun tracking q pos => ?_, fun idle => ?_, ?_⟩
  · rw [State.exec_request ready (m := m) rfl (by simp [m]) .cueInsert rfl (by simp [m, RequestKind.admits])]
    show Host.Outcome.next (s.takeCueInsert m) = _
    rw [State.takeCueInsert, edits]
    dsimp only
    rw [cue]
    dsimp only
    rw [if_neg new, if_neg fits, State.onScreen_onScreen, index]
    rfl
  · rw [State.screen_setScreen_same]
    show (match (s.screen i).tracking, (s.screen i).enginePos with
      | true, some q => if c.pos.upTo q then (s.screen i).pointer + 1 else (s.screen i).pointer
      | _, _ => (s.screen i).pointer) = _
    rw [tracking, pos]
    dsimp only
    split <;> rfl
  · rw [State.screen_setScreen_same]
    show (match (s.screen i).tracking, (s.screen i).enginePos with
      | true, some q => if c.pos.upTo q then (s.screen i).pointer + 1 else (s.screen i).pointer
      | _, _ => (s.screen i).pointer) = _
    rw [idle]
  · rw [State.screen_setScreen_same]
    rfl

/-! ### CUE-DELETE, CUE-CLEAR and CUE-DELETE-TAGGED -/

/-- Of a list with different ids, the cues with an id among the first ones: one, where its index is below them. -/
theorem length_filter_id {l : List Cue} {id n : Nat} (found : l.findIdx? (fun c => decide (c.id = id)) = some n)
    (nodup : (l.map Cue.id).Nodup) (p : Nat) :
    ((l.take p).filter fun c => decide (c.id = id)).length = if n < p then 1 else 0 := by
  obtain ⟨inside, here, before⟩ := List.findIdx?_eq_some_iff_getElem.1 found
  have counted : ((l.take p).filter fun c => decide (c.id = id)).length = ((l.take p).map Cue.id).count id := by
    rw [List.count_eq_countP, List.countP_map, List.countP_eq_length_filter]
    rfl
  have distinct : ((l.take p).map Cue.id).Nodup := by
    rw [List.map_take]
    exact nodup.sublist (List.take_sublist ..)
  have member : id ∈ (l.take p).map Cue.id ↔ n < p := by
    rw [List.mem_map]
    refine ⟨fun ⟨c, taken, same⟩ => ?_, fun below => ?_⟩
    · obtain ⟨k, hk, rfl⟩ := List.mem_take_iff_getElem.1 taken
      by_contra above
      exact before k (by omega) (decide_eq_true same)
    · exact ⟨l[n], List.mem_take_iff_getElem.2 ⟨n, by omega, rfl⟩, of_decide_eq_true here⟩
  rw [counted, distinct.count]
  exact if_congr member rfl rfl

/-- Settles O55, deletion by deletion. -/
theorem cueDeletions : Obligations.CueDeletions := by
  intro s tag scr i ready running screen unlocked
  refine ⟨fun id n found => ?_, ?_, ?_⟩
  · let x := (s.screen i).clearTags.removeCues fun c => decide (c.id = id.toNat)
    refine ⟨s.setScreen i x, ?_, fun tracking nodup => ?_, fun idle => ?_, ?_⟩
    · rw [State.exec_request ready (m := ⟨0x0F, tag, scr, toBytes 2 id.toNat⟩) rfl (by simp) .cueDelete rfl
        (by simp [RequestKind.admits])]
      show Host.Outcome.next (s.takeCueDelete _) = _
      rw [State.takeCueDelete, State.editScreen_ok running screen unlocked]
      dsimp only
      rw [fieldAt_id, found]
      dsimp only
      rw [State.onScreen_onScreen]
      rfl
    · rw [State.screen_setScreen_same]
      show (if (s.screen i).tracking then (s.screen i).pointer -
        ((((s.screen i).cues.map fun d => { d with tagged := false }).take (s.screen i).pointer).filter
          fun c => decide (c.id = id.toNat)).length else (s.screen i).pointer) = _
      rw [if_pos tracking, ← length_filter_id found nodup, ← List.map_take, List.filter_map, List.length_map]
      rfl
    · rw [State.screen_setScreen_same]
      exact if_neg (by rw [show (s.screen i).clearTags.tracking = _ from idle]; nofun)
    · rw [State.screen_setScreen_same]
      simp only [decide_not]
      rfl
  · rw [State.exec_request ready (m := ⟨0x10, tag, scr, []⟩) rfl (Nat.zero_le _) .cueClear rfl rfl]
    show Host.Outcome.next (s.takeCueClear _) = _
    rw [State.takeCueClear, State.editScreen_ok running screen unlocked]
    rfl
  · rw [State.exec_request ready (m := ⟨0x13, tag, scr, []⟩) rfl (Nat.zero_le _) .cueDeleteTagged rfl rfl]
    show Host.Outcome.next (s.takeCueDeleteTagged _) = _
    rw [State.takeCueDeleteTagged, State.editScreen_ok running screen unlocked]
    rfl

/-! ### CUE-TAG-RANGE, CUE-UNTAG and CUE-LIST-READ -/

theorem length_cueBytes (c : Cue) : c.bytes.length = 16 := by
  have action : c.action.bytes.length = 5 := by
    rcases c.action with _ | _ | _ | _ | ⟨_ | _⟩ | _ | _ | _ <;> rfl
  unfold Cue.bytes positionBytes
  simp [action]

theorem length_cueListData (s : State) (i : Fin 12) (start : Nat) :
    (s.cueListData i start).length = 8 + 16 * min 14 ((s.screen i).cues.length - start) := by
  unfold State.cueListData
  dsimp only
  rw [List.length_append, length_flatMap_const _ _ 16 length_cueBytes, List.length_take, List.length_drop]
  simp only [List.length_append, length_toBytes, List.length_cons, List.length_nil]
  omega

/-- Settles O56, request by request. -/
theorem cueTagsAndReads : Obligations.CueTagsAndReads := by
  intro s tag scr i ready running screen
  have started : s.device ≠ .starting := by rw [running]; nofun
  refine ⟨fun start => ⟨?_, length_cueListData ..⟩, fun unlocked => ⟨fun f1 f2 b1 b2 order low1 low2 => ?_,
    fun f1 f2 b1 b2 bad => ?_, fun id absent => ?_, fun id n found => ?_⟩⟩
  · have field : fieldAt [start] 0 1 = start.toNat := fieldAt_one ..
    rw [State.exec_request ready (m := ⟨0x14, tag, scr, [start]⟩) rfl (by simp) .cueListRead rfl rfl]
    show Host.Outcome.next (s.takeCueListRead _) = _
    rw [State.takeCueListRead, if_neg started]
    dsimp only
    rw [screen, field]
    rfl
  · obtain ⟨first, second⟩ := positionAt_range f1 f2 b1 b2
    rw [State.exec_request ready (m := ⟨0x11, tag, scr, toBytes 3 f1.toNat ++ [b1] ++ toBytes 3 f2.toNat ++ [b2]⟩) rfl
      (by simp) .cueTagRange rfl (by simp [RequestKind.admits])]
    show Host.Outcome.next (s.takeCueTagRange _) = _
    rw [State.takeCueTagRange, State.editScreen_ok running screen unlocked]
    dsimp only
    rw [first, second, if_pos ⟨order, low1, low2⟩, State.screen_onScreen_same]
    rfl
  · obtain ⟨first, second⟩ := positionAt_range f1 f2 b1 b2
    rw [State.exec_request ready (m := ⟨0x11, tag, scr, toBytes 3 f1.toNat ++ [b1] ++ toBytes 3 f2.toNat ++ [b2]⟩) rfl
      (by simp) .cueTagRange rfl (by simp [RequestKind.admits])]
    show Host.Outcome.next (s.takeCueTagRange _) = _
    rw [State.takeCueTagRange, State.editScreen_ok running screen unlocked]
    dsimp only
    rw [first, second, if_neg]
    · rfl
    · rintro ⟨order, low1, low2⟩
      rcases bad with h | h | h
      · rw [h] at order
        cases order
      · exact absurd low1 (Nat.not_le.2 h)
      · exact absurd low2 (Nat.not_le.2 h)
  · rw [State.exec_request ready (m := ⟨0x12, tag, scr, toBytes 2 id.toNat⟩) rfl (by simp) .cueUntag rfl
      (by simp [RequestKind.admits])]
    show Host.Outcome.next (s.takeCueUntag _) = _
    rw [State.takeCueUntag, State.editScreen_ok running screen unlocked]
    dsimp only
    rw [fieldAt_id, absent]
    rfl
  · rw [State.exec_request ready (m := ⟨0x12, tag, scr, toBytes 2 id.toNat⟩) rfl (by simp) .cueUntag rfl
      (by simp [RequestKind.admits])]
    show Host.Outcome.next (s.takeCueUntag _) = _
    rw [State.takeCueUntag, State.editScreen_ok running screen unlocked]
    dsimp only
    rw [fieldAt_id, found]
    dsimp only
    rw [State.screen_onScreen_same]
    rfl

end

end Sys2Proof.Machine

/-! Cue execution: the actions of a cue, the chase, and what a position event leaves (R150 to R161). -/

namespace Sys2Proof.Machine

set_option Elab.async false

section
variable {s t : State} {i j : Fin 12} {n : Fin 24} {c : Cue} {p : Position}

/-! ### The actions -/

theorem State.fireLine_taken (owner : (s.line n).owner = some i) (source : (s.line n).source = .cue) (on : Bool) (d : Nat) :
    s.fireLine i n on d = s.setLine n (Line.follow { s.line n with cueLevel := on, pulse := d } on) :=
  (if_pos (decide_eq_true ⟨owner, source⟩)).trans (State.driveLine_of_cue source on d)

theorem State.fireLine_failed (h : ¬ ((s.line n).owner = some i ∧ (s.line n).source = .cue)) (on : Bool) (d : Nat) :
    s.fireLine i n on d = s.cueFails i := if_neg (by rw [State.lineTakes, decide_eq_true_iff]; exact h)

theorem State.setOverride_eq (s : State) (i : Fin 12) (v : Option (Fin 16)) : s.setOverride i v =
    s.setScreen i (Screen.rebuilt { s.screen i with override := v }
      (s.formatFor (v.getD (s.screen i).tracker.code))) := by
  unfold State.setOverride State.rebuild
  rw [State.onScreen_onScreen]
  rfl

theorem State.fireFormat_cached (s : State) (i : Fin 12) {v : Option (Fin 16)}
    (cached : ∀ f, v = some f → (s.cache[f]).isSome = true) : s.fireFormat i v = s.setOverride i v := by
  cases v with
  | none => rfl
  | some f => exact if_pos (cached f rfl)

/-- A cue that cannot be carried out raises the CUE source, unless it is ACTIVE already (R104, R161). -/
theorem State.cueFails_raised (h : (s.screen i).cue.state ≠ .active) :
    ((s.cueFails i).screen i).cue.state = .active ∧ ((s.cueFails i).screen i).cue.count = 0 ∧
      ((s.cueFails i).screen i).cue.latched = true ∧ s.reported (s.cueFails i) (.cue i) true s.outSeq ∧
      s.cueFails i = { s.setScreen i { s.screen i with cue := ((s.cueFails i).screen i).cue } with
        alarms := (s.cueFails i).alarms } := by
  let raised : Source := { (s.screen i).cue with state := .active, count := 0, latched := true }
  let u := s.setSource (.cue i) raised
  have fails : s.cueFails i = u.report (.cue i) true s.outSeq := if_neg h
  have report := State.reported_of_setSource (x := raised) (u.reported_report (.cue i) true s.outSeq) rfl rfl
  rw [← fails] at report
  obtain ⟨x, l, eq, core⟩ := u.report_eq (.cue i) true s.outSeq
  rw [State.source_setSource_same] at core
  obtain ⟨state, count, latched⟩ := Source.core_fields core
  rw [← fails, State.setSource_setSource] at eq
  have own : ((s.cueFails i).screen i).cue = x := by
    rw [eq]
    exact congrArg Screen.cue (State.screen_setScreen_same ..)
  rw [own]
  refine ⟨state, count, latched, report, ?_⟩
  rw [eq]
  rfl

/-! ### The chase -/

theorem lastOfKeys_sublist (l : List Cue) : (lastOfKeys l).Sublist l := by
  induction l with
  | nil => exact .slnil
  | cons c l ih =>
    unfold lastOfKeys
    split
    · exact ih.cons c
    · exact ih.cons_cons c

theorem pairwise_lastOfKeys (l : List Cue) : (lastOfKeys l).Pairwise fun a b => a.action.key ≠ b.action.key := by
  induction l with
  | nil => exact .nil
  | cons c l ih =>
    unfold lastOfKeys
    split
    · exact ih
    next other =>
      refine List.pairwise_cons.2 ⟨fun d hd same => other ?_, ih⟩
      exact List.any_eq_true.2 ⟨d, (lastOfKeys_sublist l).subset hd, decide_eq_true same.symm⟩

/-- The last cue of its key is selected. -/
theorem mem_lastOfKeys {l1 l2 : List Cue} (last : ∀ d ∈ l2, d.action.key ≠ c.action.key) :
    c ∈ lastOfKeys (l1 ++ c :: l2) := by
  induction l1 with
  | nil =>
    have none_left : ¬ (l2.any fun d => decide (d.action.key = c.action.key)) = true := by
      simpa using last
    show c ∈ lastOfKeys (c :: l2)
    rw [lastOfKeys, if_neg none_left]
    exact List.mem_cons_self
  | cons a l1 ih =>
    show c ∈ lastOfKeys (a :: (l1 ++ c :: l2))
    unfold lastOfKeys
    split
    · exact ih
    · exact List.mem_cons_of_mem _ ih

/-- What a chase selects (R152). -/
theorem chased_spec (l : List Cue) (landing : Position) :
    (chased l landing).Sublist l ∧
      (∀ c ∈ chased l landing, c.isState = true ∧ c.pos.before landing = true) ∧
      (chased l landing).Pairwise (fun a b => a.action.key ≠ b.action.key) ∧
      ∀ l1 c l2, l = l1 ++ c :: l2 → c.isState = true → c.pos.before landing = true →
        (∀ d ∈ l2, d.isState = true → d.pos.before landing = true → d.action.key ≠ c.action.key) →
        c ∈ chased l landing := by
  have inside := lastOfKeys_sublist (l.filter fun c => c.isState && c.pos.before landing)
  refine ⟨inside.trans List.filter_sublist, fun c hc => ?_, pairwise_lastOfKeys _, ?_⟩
  · exact Bool.and_eq_true_iff.1 (List.mem_filter.1 (inside.subset hc)).2
  · rintro l1 c l2 rfl state before last
    have selected : (c.isState && c.pos.before landing) = true := Bool.and_eq_true_iff.2 ⟨state, before⟩
    unfold chased
    rw [List.filter_append, List.filter_cons_of_pos (p := fun c : Cue => c.isState && c.pos.before landing) selected]
    refine mem_lastOfKeys fun d hd => ?_
    obtain ⟨member, chosen⟩ := List.mem_filter.1 hd
    obtain ⟨dState, dBefore⟩ := Bool.and_eq_true_iff.1 chosen
    exact last d member dState dBefore

theorem State.chaseCue_of_not_fade (b : Nat) (h : ∀ target d, c.action ≠ .fade target d) :
    s.chaseCue i p b c = s.fireCue i p c := by
  unfold State.chaseCue
  split
  next target d fade => exact absurd fade (h target d)
  · rfl

/-! ### Position events -/

/-- The cue lists and their counters as they were. -/
def State.ListsSame (s t : State) : Prop :=
  ∀ j, (t.screen j).cues = (s.screen j).cues ∧ (t.screen j).counter = (s.screen j).counter

theorem State.ListsSame.onScreen (h : s.ListsSame t) {f : Screen → Screen} (hf : (f (t.screen i)).cues = (t.screen i).cues ∧
    (f (t.screen i)).counter = (t.screen i).counter) : s.ListsSame (t.onScreen i f) := by
  intro j
  rw [State.screen_onScreen]
  split
  next e => rw [e]; exact ⟨hf.1.trans (h i).1, hf.2.trans (h i).2⟩
  · exact h j

theorem State.keepsCues_listsSame (s : State) : KeepsCues s.ListsSame := by
  refine' {
    screen := fun t i y quiet h => h.onScreen (f := fun _ => y) ⟨quiet.cues, quiet.counter⟩
    source := fun t id x _ h => ?_
    defer := fun t id n _ h => ?_
    arrive := fun t i p h => h.onScreen ⟨rfl, rfl⟩
    .. }
  case refine'_1 =>
    cases id with
    | trunk | senselink => exact h
    | _ => exact h.onScreen ⟨rfl, rfl⟩
  case refine'_2 =>
    cases id with
    | trunk | senselink => exact h
    | _ => exact h.onScreen ⟨rfl, rfl⟩
  all_goals intros; assumption

/-- The engine arrived at a position of its list. -/
theorem State.arrive_spec (lists : s.ListsSame t) (i : Fin 12) (p : Position) :
    t.onScreen i (fun x => x.arrive p) = t.setScreen i { t.screen i with
      tracking := true, enginePos := some p
      pointer := ((s.screen i).cues.takeWhile fun c => c.pos.upTo p).length } := by
  rw [← (lists i).1]
  rfl

/-- An event is continuous where the engine follows, at an unchanged rate, from the position before it (R150). -/
theorem Screen.continuous_iff (x : Screen) (e : PositionEvent) : x.continuous e = true ↔ x.tracking = true ∧
    e.rateChanged = false ∧ ∃ p, e.previous = some p ∧ e.pos = p.after (1 + e.dropouts) (blocksPerFrame e.rate) := by
  unfold Screen.continuous
  cases e.previous with
  | none => simp
  | some p => simp [and_assoc]

/-- Settles O57: the event, then the chase, then the actions one by one. -/
theorem engineFollows : Obligations.EngineFollows := by
  refine ⟨fun s i e => ?_, chased_spec, fun s i p c => ?_⟩
  · have keeps := s.keepsCues_listsSame
    have self : s.ListsSame s := fun _ => ⟨rfl, rfl⟩
    have fired (t : State) (l : List Cue) (h : s.ListsSame t) :
        s.ListsSame (l.foldl (fun v c => v.fireCue i e.pos c) t) :=
      foldl_keeps _ (fun _ _ hu => State.fireCue_keeps keeps hu) _ _ h
    have caught (t : State) (l : List Cue) (h : s.ListsSame t) :
        s.ListsSame (l.foldl (fun v c => v.chaseCue i e.pos (blocksPerFrame e.rate) c) t) :=
      foldl_keeps _ (fun _ _ hu => State.chaseCue_keeps keeps hu) _ _ h
    have follows (h : (s.screen i).continuous e = true) : s.takePosition i e = _ :=
      (if_pos h).trans (State.arrive_spec (fired s _ self) i e.pos)
    have lands (h : (s.screen i).continuous e = false) : s.takePosition i e = _ :=
      (if_neg (by rw [h]; nofun)).trans (State.arrive_spec (fired _ _ (caught s _ self)) i e.pos)
    obtain ⟨u, hu⟩ : ∃ u : State, s.takePosition i e = u.setScreen i { u.screen i with
        tracking := true, enginePos := some e.pos
        pointer := ((s.screen i).cues.takeWhile fun c => c.pos.upTo e.pos).length } := by
      cases h : (s.screen i).continuous e with
      | true => exact ⟨_, follows h⟩
      | false => exact ⟨_, lands h⟩
    have lists := State.takePosition_keeps (i := i) (e := e) keeps self
    refine ⟨?_, ?_, ?_, lists, Screen.continuous_iff _ e, follows, lands⟩
    all_goals rw [hu, State.screen_setScreen_same]
  · intro t
    refine ⟨fun target d b fade => ?_, fun b other => State.chaseCue_of_not_fade b other, fun n on line owner source => ?_,
      fun n d line owner source => ?_, fun target d fade => ?_, fun v mute => ?_, fun n preset valid => ⟨fun busy => ?_,
      fun idle port => ?_⟩, fun v format cached => ?_, fun code mark room => ?_, fun failure => ?_⟩
    · unfold State.chaseCue
      rw [fade]
      dsimp only
      unfold State.loadMaster
      simp only [Ramp.load_eq]
      rfl
    · have acts : t = s.fireLine i n on 0 := by simp only [t, State.fireCue, line]
      rw [acts, State.fireLine_taken owner source]
    · have acts : t = s.fireLine i n true d := by simp only [t, State.fireCue, line]
      rw [acts, State.fireLine_taken owner source]
    · have acts : t = s.loadMaster i target d := by simp only [t, State.fireCue, fade]
      rw [acts]
      rfl
    · have acts : t = s.setMuted i v := by cases v <;> simp only [t, State.fireCue, mute] <;> rfl
      have target := Screen.recompute_target { s.screen i with muted := v } s.device
      have whole := Screen.recompute_eq { s.screen i with muted := v } s.device
      rw [muteTarget_eq] at target
      rw [acts, State.setMuted_eq, State.screen_setScreen_same]
      refine ⟨by rw [whole], target, ?_, ?_⟩
      · rw [whole]
        dsimp only
        split <;> rfl
      · rw [whole]
    · have acts : t = s.placeOp i (.slot n) := by
        simp only [t, State.fireCue, preset]
        exact if_pos valid
      rw [acts, State.placeOp, if_neg (by simpa using busy)]
      rfl
    · have acts : t = s.placeOp i (.slot n) := by
        simp only [t, State.fireCue, preset]
        exact if_pos valid
      rw [acts, State.placeOp, if_pos (by rw [idle]; rfl), State.beginOp_slot_of_port n port]
    · have acts : t = s.setOverride i v := by
        simp only [t, State.fireCue, format]
        exact s.fireFormat_cached i cached
      rw [acts, State.setOverride_eq, State.screen_setScreen_same]
      exact ⟨rfl, rfl, rfl⟩
    · have acts : t = s.fireMark i c.id code c.pos p := by simp only [t, State.fireCue, mark]
      rw [acts]
      exact if_pos room
    · have fails : t = s.cueFails i := by
        rcases failure with ⟨n, on, line, h⟩ | ⟨n, d, line, h⟩ | ⟨n, preset, h⟩ | ⟨f, format, h⟩ | ⟨code, mark, h⟩
        · simp only [t, State.fireCue, line]
          exact State.fireLine_failed h ..
        · simp only [t, State.fireCue, line]
          exact State.fireLine_failed h ..
        · simp only [t, State.fireCue, preset]
          exact if_neg h
        · simp only [t, State.fireCue, format]
          exact if_neg (by rw [h]; nofun)
        · simp only [t, State.fireCue, mark]
          exact if_neg (Nat.not_lt.2 h)
      rw [fails]
      exact ⟨fun active => if_pos active, State.cueFails_raised⟩

end

end Sys2Proof.Machine

/-! SCREEN-RESTART: the cue engine, the boot operation, the gains and the matrix, the 52 sources and the booth lines (R162,
R163). -/

namespace Sys2Proof.Machine

set_option Elab.async false

section
variable {s t u : State} {i j : Fin 12} {id : SourceId}

/-! ### The boot choice -/

theorem find?_finRange {k : Nat} {p : Fin k → Bool} {n : Fin k} (here : p n = true) (before : ∀ m, m < n → ¬ p m = true) :
    (List.finRange k).find? p = some n := by
  refine List.find?_eq_some_iff_getElem.2 ⟨here, n.val, by simp, by simp, fun m hm => ?_⟩
  rw [List.getElem_finRange, Bool.not_eq_true']
  exact eq_false_of_ne_true (before _ hm)

/-- The boot choice is the first VALID boot slot, else slot 0 where it is VALID, else SAFE (R83). -/
theorem State.bootChoice_spec (s : State) (i : Fin 12) :
    let ready (n : Fin 4) := (s.slot (.room i n)).state = .valid ∧ (s.slot (.room i n)).boot = true
    (∀ n, ready n → (∀ m, m < n → ¬ ready m) → s.bootChoice i = .slot n) ∧
      ((∀ n, ¬ ready n) → s.bootChoice i = if (s.slot (.room i 0)).state = .valid then .slot 0 else .safe) := by
  intro ready
  have chosen (n : Fin 4) : (decide ((s.slot (.room i n)).state = .valid) && (s.slot (.room i n)).boot) = true ↔ ready n := by
    rw [Bool.and_eq_true_iff, decide_eq_true_iff]
  unfold State.bootChoice
  refine ⟨fun n here before => ?_, fun none_ready => ?_⟩
  · rw [find?_finRange ((chosen n).2 here) fun m hm => fun h => before m hm ((chosen m).1 h)]
  · rw [List.find?_eq_none.2 fun n _ h => none_ready n ((chosen n).1 h)]

/-! ### The boot operation placed -/

/-- What the placing of an operation may change of its screen. -/
def Screen.Placed (x y : Screen) : Prop :=
  { y with
    running := x.running, waiting := x.waiting, loadBuf := x.loadBuf, phase := x.phase, muteZero := x.muteZero
    mute := x.mute } = x

theorem Screen.Placed.eq {x y : Screen} (h : x.Placed y) : y = { x with
    running := y.running, waiting := y.waiting, loadBuf := y.loadBuf, phase := y.phase, muteZero := y.muteZero
    mute := y.mute } := by
  unfold Screen.Placed at h
  exact congrArg (fun v : Screen => { v with
    running := y.running, waiting := y.waiting, loadBuf := y.loadBuf, phase := y.phase, muteZero := y.muteZero
    mute := y.mute }) h

theorem State.placeOp_busy (h : (s.screen i).running ≠ none) (r : PresetRef) :
    s.placeOp i r = s.setScreen i { s.screen i with waiting := some r } := if_neg (by simpa using h)

theorem State.placeOp_idle (h : (s.screen i).running = none) (r : PresetRef) : s.placeOp i r = s.beginOp i r :=
  if_pos (by rw [h]; rfl)

theorem State.beginOp_safe (s : State) (i : Fin 12) : s.beginOp i .safe = s.setScreen i (Screen.fadedOut
    { s.screen i with running := some ⟨.safe, .fadingOut⟩, loadBuf := some ⟨RoomSet.safe, .safe⟩ } s.device) := by
  unfold State.beginOp
  dsimp only
  rw [State.enterFadeOut_eq, State.onScreen, State.screen_setScreen_same, State.setScreen_setScreen]
  rfl

/-- The frame of the placing of an operation (R74, R79). -/
theorem State.placeOp_frame (s : State) (i : Fin 12) (r : PresetRef) : s.Granted (s.placeOp i r) ∧
    (s.screen i).Placed ((s.placeOp i r).screen i) ∧
    (s.port ≠ none → (s.placeOp i r).port = s.port ∧ ∀ j, j ≠ i → (s.placeOp i r).screen j = s.screen j) := by
  have own {x : Screen} (h : (s.screen i).Placed x) : s.Granted (s.setScreen i x) ∧
      (s.screen i).Placed ((s.setScreen i x).screen i) ∧
      (s.port ≠ none → (s.setScreen i x).port = s.port ∧ ∀ j, j ≠ i → (s.setScreen i x).screen j = s.screen j) :=
    ⟨rfl, by rw [State.screen_setScreen_same]; exact h,
      fun _ => ⟨rfl, fun j hj => State.screen_setScreen_other (h := hj) ..⟩⟩
  by_cases busy : (s.screen i).running = none
  · rw [State.placeOp_idle busy]
    cases r with
    | safe =>
      rw [State.beginOp_safe]
      refine own ?_
      rw [(Screen.fadedOut_eq _ _).1]
      rfl
    | slot n =>
      let x : Screen := { s.screen i with running := some ⟨.slot n, .loadWait⟩ }
      have begun : s.beginOp i (.slot n) = (s.setScreen i x).grant := rfl
      obtain ⟨granted, placed, others⟩ := own (x := x) rfl
      rw [begun]
      refine ⟨State.grant_keeps s.keepsGrant_granted granted, ?_, fun port => ?_⟩
      · rw [State.screen_grant]
        exact placed
      · rw [State.grant_of_port (s := s.setScreen i x) port]
        exact others port
  · rw [State.placeOp_busy busy]
    exact own rfl

/-! ### The gains, the override and the feeds -/

/-- A screen's protect records and fold set zeroed (R163). -/
def Screen.unfolded (x : Screen) : Screen :=
  (x.mapFeeds fun _ y => { y with protect := ⟨0, 0, 0⟩ }).mapFeeds fun _ y => { y with folded := false }

theorem Screen.feed_unfolded (x : Screen) (k : Fin 16) :
    x.unfolded.feed k = { x.feed k with protect := ⟨0, 0, 0⟩, folded := false } := by
  unfold Screen.unfolded
  rw [Screen.feed_mapFeeds, Screen.feed_mapFeeds]

theorem Screen.feed_rebuilt (x : Screen) (f : Format) (k : Fin 16) :
    (x.rebuilt f).feed k = { x.feed k with row := effectiveRow f x.out k, fold := foldStateOf f x.out k } :=
  Screen.feed_mapFeeds ..

/-- A screen's gains, override, protect records and fold set restarted, the matrix rebuilt for f and then for g (R163). -/
def Screen.restarted (x : Screen) (d : Device) (f g : Format) : Screen :=
  (((Screen.recompute d { x with master := x.master.load Config.unity 0, muted := false }).overridden none).rebuilt
    f).unfolded.rebuilt g

theorem State.restart_gains (v : State) (i : Fin 12) : ∃ f g : Format,
    (((((v.loadMaster i Config.unity 0).setMuted i false).takeOverride i none).zeroProtect i).emptyFoldSet i) =
      v.setScreen i ((v.screen i).restarted v.device f g) := by
  refine ⟨?f, ?g, ?gained⟩
  case gained =>
  rw [State.loadMaster, State.onScreen, State.setMuted_eq, State.screen_setScreen_same, State.setScreen_setScreen,
    State.takeOverride_eq, State.screen_setScreen_same, State.setScreen_setScreen, State.zeroProtect,
    State.onScreen_setScreen, State.emptyFoldSet, State.onScreen_setScreen, State.rebuild, State.onScreen_setScreen]
  rfl

theorem Screen.restarted_eq (x : Screen) (d : Device) (f g : Format) : x.restarted d f g = { x with
    master := ⟨x.master.current, x.master.current, 32768, 1⟩, muted := false, mute := (x.restarted d f g).mute
    override := none, handed := (x.restarted d f g).handed, feeds := (x.restarted d f g).feeds } ∧
    (x.phase = .fadingOut → (x.restarted d f g).mute.target = 0) ∧
    ∀ k, ((x.restarted d f g).feed k).protect = ⟨0, 0, 0⟩ ∧ ((x.restarted d f g).feed k).folded = false := by
  refine ⟨?_, fun fading => ?_, fun k => ?_⟩
  · have gained := Screen.recompute_eq { x with master := x.master.load Config.unity 0, muted := false } d
    unfold Screen.restarted
    generalize Screen.recompute d _ = z at gained
    have silent := congrArg Screen.mute gained
    dsimp only at silent
    rw [← silent, Ramp.load_eq] at gained
    have rebuilt (y : Screen) (e : Format) : y.rebuilt e = { y with feeds := (y.rebuilt e).feeds } := rfl
    have unfolded (y : Screen) : y.unfolded = { y with feeds := y.unfolded.feeds } := rfl
    rw [rebuilt _ g, unfolded, rebuilt _ f]
    dsimp only [Screen.overridden]
    rw [gained]
    rfl
  · have target := Screen.recompute_target { x with master := x.master.load Config.unity 0, muted := false } d
    rw [muteTarget_eq, if_pos (.inr (.inr fading))] at target
    unfold Screen.restarted
    generalize Screen.recompute d _ = z at target
    exact target
  · unfold Screen.restarted
    rw [Screen.feed_rebuilt, Screen.feed_unfolded]
    exact ⟨rfl, rfl⟩

/-! ### The sources -/

/-- What may differ after sources of one screen have been restarted: these sources and the alarm list. -/
structure State.Restarts (s : State) (i : Fin 12) (t : State) : Prop where
  rest : { t with screens := s.screens, alarms := s.alarms } = s
  others : ∀ j, j ≠ i → t.screen j = s.screen j
  own : { t.screen i with
    track := (s.screen i).track, dropout := (s.screen i).dropout, preset := (s.screen i).preset
    cue := (s.screen i).cue, feeds := (s.screen i).feeds } = s.screen i
  feeds : ∀ k, (s.feed i k).Sourced (t.feed i k)

theorem State.Restarts.onScreen (h : s.Restarts i t) {f : Screen → Screen}
    (hf : ∀ x : Screen, { f x with
      track := (s.screen i).track, dropout := (s.screen i).dropout, preset := (s.screen i).preset
      cue := (s.screen i).cue, feeds := (s.screen i).feeds } = { x with
      track := (s.screen i).track, dropout := (s.screen i).dropout, preset := (s.screen i).preset
      cue := (s.screen i).cue, feeds := (s.screen i).feeds })
    (fed : ∀ (x : Screen) k, (x.feed k).Sourced ((f x).feed k)) : s.Restarts i (t.onScreen i f) where
  rest := h.rest
  others := fun j other => by rw [State.screen_onScreen_other (h := other)]; exact h.others j other
  own := by rw [State.screen_onScreen_same]; exact (hf _).trans h.own
  feeds := fun k => by
    rw [State.feed_onScreen, if_pos rfl]
    have before := h.feeds k
    have after := fed (t.screen i) k
    unfold Feed.Sourced at *
    rw [← before]
    exact congrArg (fun y : Feed => { y with
      overload := (s.feed i k).overload, silent := (s.feed i k).silent, mismatch := (s.feed i k).mismatch }) after

theorem State.Restarts.setSource (h : s.Restarts i t) (hid : id ∈ screenSources i ++ feedSources i) (x : Source) :
    s.Restarts i (t.setSource id x) := by
  rcases List.mem_append.1 hid with hid | hid
  · rcases mem_screenSources.1 hid with rfl | rfl | rfl | rfl
    · exact h.onScreen (f := fun y => { y with track := x }) (fun _ => rfl) fun _ _ => rfl
    · exact h.onScreen (f := fun y => { y with dropout := x }) (fun _ => rfl) fun _ _ => rfl
    · exact h.onScreen (f := fun y => { y with preset := x }) (fun _ => rfl) fun _ _ => rfl
    · exact h.onScreen (f := fun y => { y with cue := x }) (fun _ => rfl) fun _ _ => rfl
  · have fed (k : Fin 16) (f : Feed → Feed) (hf : ∀ y : Feed, y.Sourced (f y)) : s.Restarts i (t.onFeed i k f) := by
      refine h.onScreen (fun _ => rfl) fun y q => ?_
      rw [Screen.feed_setFeed]
      split
      next e => rw [e]; exact hf _
      · rfl
    obtain ⟨k, rfl | rfl | rfl⟩ := mem_feedSources.1 hid
    · exact fed k (fun y => { y with overload := x }) fun _ => rfl
    · exact fed k (fun y => { y with silent := x }) fun _ => rfl
    · exact fed k (fun y => { y with mismatch := x }) fun _ => rfl

/-- A source restarted: its record but for a deferral, and the alarm list (R107). -/
theorem State.restartSource_eq (s : State) (id : SourceId) :
    ∃ x l, s.restartSource id = (s.setSource id x).withAlarms l ∧
      x.core = { (s.source id).core with state := .clear, count := 0, latched := false } := by
  obtain ⟨y, l, eq, core⟩ := s.forceClear_eq id
  refine ⟨{ y with latched := false }, l, ?_, ?_⟩
  · unfold State.restartSource
    dsimp only
    rw [eq, State.setSource_withAlarms, State.setSource_setSource, State.source_withAlarms, State.source_setSource_same]
  · exact congrArg (fun v : Source => { v with latched := false }) core

theorem State.restarts_restartSources (s : State) (i : Fin 12) : s.Restarts i (s.restartSources i) := by
  have steps : ∀ l : List SourceId, (∀ id ∈ l, id ∈ screenSources i ++ feedSources i) → ∀ u, s.Restarts i u →
      s.Restarts i (l.foldl State.restartSource u) := by
    intro l
    induction l with
    | nil => exact fun _ _ hu => hu
    | cons a l ih =>
      intro inside u hu
      refine ih (fun id hid => inside id (List.mem_cons_of_mem _ hid)) _ ?_
      obtain ⟨x, l, eq, -⟩ := u.restartSource_eq a
      obtain ⟨rest, others, own, feeds⟩ := hu.setSource (inside a List.mem_cons_self) x
      rw [eq]
      exact ⟨rest, others, own, feeds⟩
  exact steps _ (fun _ hid => hid) s ⟨rfl, fun _ _ => rfl, rfl, fun _ => rfl⟩

theorem State.source_restartSources (s : State) (hid : id ∈ screenSources i ++ feedSources i) :
    ((s.restartSources i).source id).state = .clear ∧ ((s.restartSources i).source id).count = 0 ∧
      ((s.restartSources i).source id).latched = false := by
  have core : ((s.restartSources i).source id).core =
      { (s.source id).core with state := .clear, count := 0, latched := false } := by
    have reset := source_foldl (view := Source.core) (f := State.restartSource)
      (change := fun x => { x with state := .clear, count := 0, latched := false }) (fun _ => rfl) (fun u a id2 => by
        obtain ⟨x, l, eq, core⟩ := u.restartSource_eq a
        rw [eq, State.source_withAlarms, State.source_setSource]
        split
        next same => rw [same]; exact core
        · rfl) (screenSources i ++ feedSources i) s id
    rwa [if_pos hid] at reset
  have state := congrArg Source.state core
  have count := congrArg Source.count core
  have latched := congrArg Source.latched core
  exact ⟨state, count, latched⟩

/-! ### The lines -/

/-- The screen's CUE lines set OFF, and no other line moved (R163, R169). -/
theorem State.linesOff_spec (s : State) (i : Fin 12) : s.linesOff i = { s with lines := (s.linesOff i).lines } ∧
    ∀ n, (s.linesOff i).line n = if (s.line n).owner = some i ∧ (s.line n).source = .cue
      then Line.follow { s.line n with cueLevel := false, pulse := 0 } false else s.line n := by
  have off (n : Fin 24) (u : State) : (if u.lineTakes n i then u.driveLine n false 0 else u) =
      u.setLine n (if (u.line n).owner = some i ∧ (u.line n).source = .cue
        then Line.follow { u.line n with cueLevel := false, pulse := 0 } false else u.line n) := by
    unfold State.lineTakes
    by_cases h : (u.line n).owner = some i ∧ (u.line n).source = .cue
    · rw [if_pos (decide_eq_true h), if_pos h, State.driveLine_of_cue h.2]
    · rw [if_neg (by rw [decide_eq_true_iff]; exact h), if_neg h]
      unfold State.setLine State.line
      simp
  obtain ⟨kept, lines⟩ := foldl_each (f := fun n u => if u.lineTakes n i then u.driveLine n false 0 else u)
    (common := fun u : State => { u with lines := s.lines }) (view := State.line)
    (next := fun _ _ l => if l.owner = some i ∧ l.source = .cue
      then Line.follow { l with cueLevel := false, pulse := 0 } false else l)
    (fun n u => by rw [off]; rfl)
    (fun n u m => by
      rw [off]
      by_cases same : m = n
      · rw [if_pos same, same, State.line_setLine_same]
      · rw [if_neg same, State.line_setLine_other (h := same)])
    (List.nodup_finRange 24) s
  have kept : { s.linesOff i with lines := s.lines } = s := kept
  refine ⟨?_, fun n => (lines n).trans (if_pos (List.mem_finRange n))⟩
  generalize s.linesOff i = t at kept
  exact congrArg (fun u : State => { u with lines := t.lines }) kept

theorem State.source_lines (s : State) (x : Vector Line 24) (id : SourceId) :
    State.source { s with lines := x } id = s.source id := by cases id <;> rfl

/-- The screen with its cue list emptied, its engine IDLE and no operation pending (R163). -/
def Screen.cleared (x : Screen) : Screen := { x.restartCues with waiting := none }

/-- The steps of a restart by what each leaves (R163). -/
theorem State.restart_steps (s : State) (i : Fin 12) : ∃ v w : State,
    v = (s.setScreen i (s.screen i).cleared).placeOp i (s.bootChoice i) ∧
      (∃ f g, (v.setScreen i ((v.screen i).restarted v.device f g)).Restarts i w) ∧
      (∀ id ∈ screenSources i ++ feedSources i,
        (w.source id).state = .clear ∧ (w.source id).count = 0 ∧ (w.source id).latched = false) ∧
      s.restart i = w.linesOff i := by
  let v := (s.setScreen i (s.screen i).cleared).placeOp i (s.bootChoice i)
  let w := (((((v.loadMaster i Config.unity 0).setMuted i false).takeOverride i none).zeroProtect i).emptyFoldSet i)
  have unfolded : s.restart i = (w.restartSources i).linesOff i := by
    unfold State.restart
    dsimp only
    rw [State.onScreen_onScreen]
    rfl
  obtain ⟨f, g, gained⟩ := v.restart_gains i
  refine ⟨v, w.restartSources i, rfl, ⟨f, g, ?_⟩, fun id hid => w.source_restartSources hid, unfolded⟩
  rw [← gained]
  exact w.restarts_restartSources i

/-- Settles O60: the eight steps in order. -/
theorem screenRestarted : Obligations.ScreenRestarted := by
  intro s tag scr i ready running screen unlocked
  have started : s.device ≠ .starting := by rw [running]; nofun
  have taken : exec (.screenRestart tag scr) s =
      .next ((s.restart i).replied ⟨0x1E, tag, scr, .done, false, [], true⟩) := by
    rw [State.exec_request ready (m := ⟨0x1E, tag, scr, []⟩) rfl (Nat.zero_le _) .screenRestart rfl rfl]
    show Host.Outcome.next (s.takeScreenRestart _) = _
    rw [State.takeScreenRestart, if_neg started]
    dsimp only
    rw [screen]
    exact congrArg Host.Outcome.next (if_neg (by rw [unlocked]; nofun))
  obtain ⟨v, w, placed, ⟨f, g, restarts⟩, sources, restarted⟩ := s.restart_steps i
  rw [restarted] at taken
  let u := s.setScreen i (s.screen i).cleared
  have cleared : u.screen i = (s.screen i).cleared := State.screen_setScreen_same ..
  obtain ⟨granted, own, still⟩ := u.placeOp_frame i (s.bootChoice i)
  rw [show u.placeOp i (s.bootChoice i) = v from placed.symm] at granted own still
  obtain ⟨fields, silent, feeds⟩ := (v.screen i).restarted_eq v.device f g
  generalize (v.screen i).restarted v.device f g = x at restarts fields silent feeds
  have set : (v.setScreen i x).screen i = x := State.screen_setScreen_same ..
  have frame : w = { v with screens := w.screens, alarms := w.alarms } := by
    have rest := restarts.rest
    exact congrArg (fun q : State => { q with screens := w.screens, alarms := w.alarms }) rest
  have final : w.screen i = { x with
      track := (w.screen i).track, dropout := (w.screen i).dropout, preset := (w.screen i).preset
      cue := (w.screen i).cue, feeds := (w.screen i).feeds } := by
    have same := restarts.own
    rw [set] at same
    exact congrArg (fun q : Screen => { q with
      track := (w.screen i).track, dropout := (w.screen i).dropout, preset := (w.screen i).preset
      cue := (w.screen i).cue, feeds := (w.screen i).feeds }) same
  have feed (k : Fin 16) : (w.feed i k).protect = ⟨0, 0, 0⟩ ∧ (w.feed i k).folded = false := by
    have given : (v.setScreen i x).feed i k = x.feed k := congrArg (fun y : Screen => y.feed k) set
    rw [(restarts.feeds k).eq, given]
    exact feeds k
  have others (j : Fin 12) (h : j ≠ i) : w.screen j = v.screen j :=
    (restarts.others j h).trans (State.screen_setScreen_other (h := h) ..)
  obtain ⟨lined, lines⟩ := w.linesOff_spec i
  generalize w.linesOff i = t at taken lined lines
  have shown (j : Fin 12) : t.screen j = w.screen j := by rw [lined]; rfl
  have whole := own.eq
  rw [cleared] at whole
  have trackedBefore : x.tracker = (s.screen i).tracker := by
    rw [fields, whole]
    rfl
  have operation : (t.screen i).running = (v.screen i).running := by rw [shown, final, fields]
  have pending : (t.screen i).waiting = (v.screen i).waiting := by rw [shown, final, fields]
  have phase : (t.screen i).phase = (v.screen i).phase := by rw [shown, final, fields]
  have buffer : (t.screen i).loadBuf = (v.screen i).loadBuf := by rw [shown, final, fields]
  have mute : (t.screen i).mute = x.mute := by rw [shown, final]
  have held : t.port = v.port := by rw [lined, frame]
  obtain ⟨first, otherwise⟩ := s.bootChoice_spec i
  refine ⟨t, taken, ?_, ?_, ?_, ?_, ?_, ?_, ?_, ?_, fun k => ?_, fun id hid => ?_, ?_,
    ⟨first, otherwise, fun busy => ?_, fun idle => ⟨?_, fun safe => ?_, fun n slot => ⟨fun port => ?_,
      fun port scan loads => ?_⟩⟩⟩, fun n => ?_, ?_, fun port j other => ?_⟩
  · rw [shown, final, fields, whole]; rfl
  · rw [shown, final, fields, whole]; rfl
  · rw [shown, final, fields, whole]; rfl
  · rw [shown, final, fields, whole]; rfl
  · rw [shown, final, fields, whole]; rfl
  · rw [shown, final, fields]
  · rw [shown, final, fields]
  · rw [shown, final, fields, whole]; rfl
  · rw [State.feed, shown]
    exact feed k
  · rw [lined, State.source_lines]
    exact sources id hid
  · rw [shown, final]
    exact trackedBefore
  · rw [State.placeOp_busy (s := u) (by rw [cleared]; exact busy)] at placed
    have began : v.screen i = { (s.screen i).cleared with waiting := some (s.bootChoice i) } := by
      rw [placed, State.screen_setScreen_same, cleared]
    rw [operation, pending, phase, buffer, began]
    exact ⟨rfl, rfl, rfl, rfl⟩
  · rw [pending]
    rw [State.placeOp_idle (s := u) (by rw [cleared]; exact idle)] at placed
    cases choice : s.bootChoice i with
    | safe =>
      rw [choice, State.beginOp_safe] at placed
      rw [placed, State.screen_setScreen_same, (Screen.fadedOut_eq _ _).1, cleared]
      rfl
    | slot n =>
      rw [choice] at placed
      have begun : v = (u.setScreen i { u.screen i with running := some ⟨.slot n, .loadWait⟩ }).grant := placed
      rw [begun, State.screen_grant, State.screen_setScreen_same, cleared]
      rfl
  · rw [State.placeOp_idle (s := u) (by rw [cleared]; exact idle), safe, State.beginOp_safe] at placed
    have began := (congrArg (State.screen · i) placed).trans
      ((State.screen_setScreen_same ..).trans (Screen.fadedOut_eq _ _).1)
    have fading : (v.screen i).phase = .fadingOut := by rw [began]
    rw [operation, buffer, phase, fading, mute]
    refine ⟨?_, ?_, rfl, silent fading⟩
    · rw [began]
      rfl
    · rw [began]
  · rw [State.placeOp_idle (s := u) (by rw [cleared]; exact idle), slot, State.beginOp_slot_of_port (s := u) n port] at placed
    rw [operation, held, placed]
    exact ⟨rfl, congrArg Screen.running (State.screen_setScreen_same ..)⟩
  · have quiet : u.findScreen Screen.loadWaits = none := by
      refine List.find?_eq_none.2 fun j _ => ?_
      have waits : (u.screen j).running = (s.screen j).running := by
        by_cases same : j = i
        · rw [same, cleared]
          rfl
        · rw [State.screen_setScreen_other (h := same)]
      have before := List.find?_eq_none.1 loads j (List.mem_finRange j)
      unfold Screen.loadWaits at *
      rw [waits]
      exact before
    rw [State.placeOp_idle (s := u) (by rw [cleared]; exact idle), slot,
      State.beginOp_slot_of_free (s := u) n port scan quiet] at placed
    rw [operation, held, placed, State.screen_withPort]
    exact ⟨rfl, congrArg Screen.running (State.screen_setScreen_same ..)⟩
  · have before : w.line n = s.line n := by
      have kept : w.lines = s.lines := by
        rw [frame, granted.eq]
        rfl
      exact congrArg (fun l : Vector Line 24 => l[n]) kept
    rw [lines, before]
  · have alarms : t.alarms = w.alarms := by rw [lined]
    have screens : t.screens = w.screens := by rw [lined]
    rw [held, alarms, screens, show t.slots = v.slots by rw [lined, frame],
      show t.refreshes = v.refreshes by rw [lined, frame], show t.commit = v.commit by rw [lined, frame]]
    generalize t.lines = l at lined
    rw [lined]
    have base := granted.eq
    generalize w.screens = xs at frame
    generalize w.alarms = al at frame
    rw [frame]
    generalize v = q at base
    exact congrArg (fun z : State => { z with screens := xs, alarms := al, lines := l }) base
  · rw [shown, others j other, (still port).2 j other]
    exact State.screen_setScreen_other (h := other) ..

end

end Sys2Proof.Machine

/-! The end of a block period in LOCKED: the blocks it sends, and what the filling of the return lane leaves (R1, R20, R21,
R182). -/

namespace Sys2Proof.Machine

set_option Elab.async false

section
variable {s t u : State} {i j : Fin 12} {k : Fin 16} {id : SourceId}

/-! ### What a filling of the return lane leaves -/

/-- The state but for the screens, the sources, the notices, the replies, the message in transmission and the event flags. -/
def State.Unsent (s t : State) : Prop :=
  { t with
    screens := s.screens, trunk := s.trunk, senselink := s.senselink, alarms := s.alarms, marks := s.marks
    storeNotices := s.storeNotices, replies := s.replies, tx := s.tx, laneLoss := s.laneLoss, crcReject := s.crcReject
    overrun := s.overrun, commitEnded := s.commitEnded } = s

theorem State.Unsent.eq (h : s.Unsent t) : t = { s with
    screens := t.screens, trunk := t.trunk, senselink := t.senselink, alarms := t.alarms, marks := t.marks
    storeNotices := t.storeNotices, replies := t.replies, tx := t.tx, laneLoss := t.laneLoss, crcReject := t.crcReject
    overrun := t.overrun, commitEnded := t.commitEnded } := by
  unfold State.Unsent at h
  exact congrArg (fun v : State => { v with
    screens := t.screens, trunk := t.trunk, senselink := t.senselink, alarms := t.alarms, marks := t.marks
    storeNotices := t.storeNotices, replies := t.replies, tx := t.tx, laneLoss := t.laneLoss, crcReject := t.crcReject
    overrun := t.overrun, commitEnded := t.commitEnded }) h

/-- What may differ after messages have begun with no message held: of a source its deferral alone. -/
structure State.Sends (s t : State) : Prop where
  rest : s.Unsent t
  screens : ∀ j, { t.screen j with
    track := (s.screen j).track, dropout := (s.screen j).dropout, preset := (s.screen j).preset
    cue := (s.screen j).cue, feeds := (s.screen j).feeds } = s.screen j
  feeds : ∀ j k, (s.feed j k).Sourced (t.feed j k)
  sources : ∀ id, (t.source id).core = (s.source id).core

theorem State.sends_self (s : State) : s.Sends s := ⟨rfl, fun _ => rfl, fun _ _ => rfl, fun _ => rfl⟩

theorem State.Sends.holdBuf (h : s.Sends t) : t.holdBuf = s.holdBuf := by rw [h.rest.eq]

/-- A change of the queues, the message in transmission and the flags. -/
theorem State.Sends.queues (h : s.Sends t) (rest : s.Unsent u)
    (same : u.screens = t.screens ∧ u.trunk = t.trunk ∧ u.senselink = t.senselink) : s.Sends u := by
  obtain ⟨screens, trunk, senselink⟩ := same
  have screen (j : Fin 12) : u.screen j = t.screen j := congrArg (fun v : Vector Screen 12 => v[j]) screens
  have feed (j : Fin 12) (k : Fin 16) : u.feed j k = t.feed j k := congrArg (fun x : Screen => x.feed k) (screen j)
  have source (id : SourceId) : u.source id = t.source id := by
    cases id <;> simp only [State.source, screen, feed, trunk, senselink]
  exact ⟨rest, fun j => by rw [screen]; exact h.screens j, fun j k => by rw [feed]; exact h.feeds j k,
    fun id => by rw [source]; exact h.sources id⟩

/-- A source's deferral changed. -/
theorem State.Sends.setSource (h : s.Sends t) (id : SourceId) {x : Source} (core : x.core = (t.source id).core) :
    s.Sends (t.setSource id x) := by
  have sources (id2 : SourceId) : ((t.setSource id x).source id2).core = (s.source id2).core := by
    rw [State.source_setSource]
    split
    next same => rw [core, ← same]; exact h.sources id2
    · exact h.sources id2
  refine ⟨?_, fun j => ?_, fun j k => ?_, sources⟩
  · cases id <;> exact h.rest
  · have resourced := t.resourced_setSource id x j
    unfold Screen.Resourced at resourced
    rw [resourced]
    exact h.screens j
  · have fed (i : Fin 12) (q : Fin 16) (f : Feed → Feed) (hf : ∀ y z : Feed, y.Sourced z → y.Sourced (f z)) :
        (s.feed j k).Sourced ((t.onFeed i q f).feed j k) := by
      rw [State.feed_onFeed]
      split
      · exact hf _ _ (h.feeds j k)
      · exact h.feeds j k
    have kept (i : Fin 12) (f : Screen → Screen) (hf : ∀ y : Screen, (f y).feeds = y.feeds) :
        (s.feed j k).Sourced ((t.onScreen i f).feed j k) := by
      rw [State.feed_onScreen]
      split
      · rw [Screen.feed, hf]
        exact h.feeds j k
      · exact h.feeds j k
    cases id with
    | trunk | senselink => exact h.feeds j k
    | track i => exact kept i (fun y => { y with track := x }) fun _ => rfl
    | dropout i => exact kept i (fun y => { y with dropout := x }) fun _ => rfl
    | preset i => exact kept i (fun y => { y with preset := x }) fun _ => rfl
    | cue i => exact kept i (fun y => { y with cue := x }) fun _ => rfl
    | overload i q => exact fed i q (fun y => { y with overload := x }) fun _ _ h => h
    | silent i q => exact fed i q (fun y => { y with silent := x }) fun _ _ h => h
    | mismatch i q => exact fed i q (fun y => { y with mismatch := x }) fun _ _ h => h

theorem State.Sends.alarmLeaves (h : s.Sends t) : s.Sends t.alarmLeaves := by
  unfold State.alarmLeaves State.buildDeferred
  split
  · exact h.queues h.rest ⟨rfl, rfl, rfl⟩
  next id _ =>
    have dropped : s.Sends { t with alarms := t.alarms.tail } := h.queues h.rest ⟨rfl, rfl, rfl⟩
    generalize ({ t with alarms := t.alarms.tail } : State) = w at dropped
    dsimp only
    have base : s.Sends { w with alarms := w.alarms ++ [AlarmRecord.mk id (w.source id).isUp (w.source id).unreportedCount
      w.outSeq (w.reportValue id)] } := dropped.queues dropped.rest ⟨rfl, rfl, rfl⟩
    refine base.setSource id ?_
    rw [State.source_alarms]
    rfl

theorem State.Sends.beginNotice (h : s.Sends t) : s.Sends t.beginNotice := by
  unfold State.beginNotice
  split
  · exact h.queues h.rest ⟨rfl, rfl, rfl⟩
  · split
    · exact h.queues h.rest ⟨rfl, rfl, rfl⟩
    · split
      · exact h.alarmLeaves.queues h.alarmLeaves.rest ⟨rfl, rfl, rfl⟩
      · exact h

theorem State.Sends.beginMessage (empty : s.holdBuf = none) (h : s.Sends t) : s.Sends t.beginMessage := by
  unfold State.beginMessage
  split
  next r rest _ =>
    split
    · have left : s.Sends { t.clearEvents with replies := rest, tx := t.replyBytes r } := h.queues h.rest ⟨rfl, rfl, rfl⟩
      generalize ({ t.clearEvents with replies := rest, tx := t.replyBytes r } : State) = w at left ⊢
      rw [State.takeHoldBuffer_none w (left.holdBuf.trans empty)]
      exact left
    · exact h.beginNotice
  · exact h.beginNotice

theorem State.Sends.pour {f : LaneFill} (h : s.Sends f.state) : s.Sends f.pour.state :=
  h.queues h.rest ⟨rfl, rfl, rfl⟩

theorem State.Sends.choose {f : LaneFill} (empty : s.holdBuf = none) (h : s.Sends f.state) : s.Sends f.choose.state := by
  unfold LaneFill.choose
  split
  · dsimp only
    split
    · exact h
    · exact State.Sends.pour (f := ⟨_, _, _⟩) (h.beginMessage empty)
  · exact h

theorem State.sends_fillLane (empty : s.holdBuf = none) : s.Sends s.fillLane.state := by
  unfold State.fillLane
  exact ((((State.Sends.pour (f := ⟨s, [], none⟩) s.sends_self).choose empty).choose empty).choose empty).choose empty

/-! ### What the end of a period leaves -/

/-- Two states that differ in their screens, lines, sources and alarm lists alone. -/
def State.Processed (s t : State) : Prop :=
  { t with screens := s.screens, lines := s.lines, alarms := s.alarms, trunk := s.trunk, senselink := s.senselink } = s

/-- The same, with every cue list as it was. -/
def State.ProcessedFrom (s t : State) : Prop := s.Processed t ∧ ∀ i, (t.screen i).cues = (s.screen i).cues

/-- The processing of a period changes screens, sources, alarm list and lines alone, and no cue list. -/
theorem State.processPeriod_frame (s : State) : s.ProcessedFrom s.processPeriod := by
  have source (u : State) (id : SourceId) (x : Source) (i : Fin 12) :
      ((u.setSource id x).screen i).cues = (u.screen i).cues := by
    have resourced := u.resourced_setSource id x i
    unfold Screen.Resourced at resourced
    rw [resourced]
  have alarms : KeepsAlarms s.ProcessedFrom :=
    { screen := fun u i y quiet ⟨frame, cues⟩ => ⟨frame, fun j => by
        rw [State.screen_setScreen]
        split
        next same => rw [quiet.cues, ← same]; exact cues j
        · exact cues j⟩
      source := fun u id y _ ⟨frame, cues⟩ => ⟨by cases id <;> exact frame, fun j => (source ..).trans (cues j)⟩
      defer := fun u id n _ ⟨frame, cues⟩ => ⟨by cases id <;> exact frame, fun j => (source ..).trans (cues j)⟩
      alarmUpdate := fun _ _ _ h => h
      alarmAdd := fun _ _ _ _ _ h => h }
  have lines : KeepsLines s.ProcessedFrom := ⟨fun _ _ h => h⟩
  unfold State.processPeriod
  exact State.refreshLines_keeps lines (State.forScreens_keeps
    (fun _ _ hu => State.handAlarms_keeps alarms.toKeepsScreens hu) (State.stepDeviceSources_keeps alarms
      (State.forScreens_keeps (fun _ _ hu => State.stepScreenSources_keeps alarms hu)
        (State.forFeeds_keeps (fun _ _ _ hu => State.feedPeriod_keeps alarms hu) ⟨rfl, fun _ => rfl⟩))))

/-- The state but for what the end of a period changes with no message held. -/
def State.Closed (s t : State) : Prop :=
  { t with
    screens := s.screens, lines := s.lines, alarms := s.alarms, trunk := s.trunk, senselink := s.senselink
    marks := s.marks, storeNotices := s.storeNotices, replies := s.replies, tx := s.tx, laneLoss := s.laneLoss
    crcReject := s.crcReject, overrun := s.overrun, commitEnded := s.commitEnded, windowCount := s.windowCount
    integrityAcc := s.integrityAcc, feedOut := s.feedOut, returnOut := s.returnOut, periodOpen := s.periodOpen } = s

theorem State.Closed.eq (h : s.Closed t) : t = { s with
    screens := t.screens, lines := t.lines, alarms := t.alarms, trunk := t.trunk, senselink := t.senselink
    marks := t.marks, storeNotices := t.storeNotices, replies := t.replies, tx := t.tx, laneLoss := t.laneLoss
    crcReject := t.crcReject, overrun := t.overrun, commitEnded := t.commitEnded, windowCount := t.windowCount
    integrityAcc := t.integrityAcc, feedOut := t.feedOut, returnOut := t.returnOut, periodOpen := t.periodOpen } := by
  unfold State.Closed at h
  exact congrArg (fun v : State => { v with
    screens := t.screens, lines := t.lines, alarms := t.alarms, trunk := t.trunk, senselink := t.senselink
    marks := t.marks, storeNotices := t.storeNotices, replies := t.replies, tx := t.tx, laneLoss := t.laneLoss
    crcReject := t.crcReject, overrun := t.overrun, commitEnded := t.commitEnded, windowCount := t.windowCount
    integrityAcc := t.integrityAcc, feedOut := t.feedOut, returnOut := t.returnOut, periodOpen := t.periodOpen }) h

theorem State.Processed.holdBuf (h : s.Processed t) : t.holdBuf = s.holdBuf := by
  unfold State.Processed at h
  have same := congrArg (fun v : State => v.holdBuf) h
  exact same

/-! Counting a period touches the window alone. -/

@[simp] theorem State.countPeriod_holdBuf (s : State) : s.countPeriod.holdBuf = s.holdBuf := rfl
@[simp] theorem State.countPeriod_tx (s : State) : s.countPeriod.tx = s.tx := rfl
@[simp] theorem State.countPeriod_outSeq (s : State) : s.countPeriod.outSeq = s.outSeq := rfl
@[simp] theorem State.countPeriod_silentPeriod (s : State) : s.countPeriod.silentPeriod = s.silentPeriod := rfl
@[simp] theorem State.countPeriod_screen (s : State) (i : Fin 12) : s.countPeriod.screen i = s.screen i := rfl
@[simp] theorem State.countPeriod_feed (s : State) (i : Fin 12) (k : Fin 16) : s.countPeriod.feed i k = s.feed i k := rfl

/-- With no message held, the end of a period sends from the state it has processed and counted. -/
theorem State.closePeriod_sends (empty : s.holdBuf = none) :
    s.processPeriod.countPeriod.Sends s.processPeriod.countPeriod.fillLane.state :=
  State.sends_fillLane ((State.countPeriod_holdBuf _).trans (s.processPeriod_frame.1.holdBuf.trans empty))

theorem State.Processed.closed {a b : List Byte} (h : s.Processed t) (sent : t.countPeriod.Unsent u) :
    s.Closed { u with feedOut := a, returnOut := b, periodOpen := false } := by
  rw [sent.eq]
  unfold State.Processed at h
  exact congrArg (fun v : State => { v with
    marks := s.marks, storeNotices := s.storeNotices, replies := s.replies, tx := s.tx, laneLoss := s.laneLoss
    crcReject := s.crcReject, overrun := s.overrun, commitEnded := s.commitEnded, windowCount := s.windowCount
    integrityAcc := s.integrityAcc, feedOut := s.feedOut, returnOut := s.returnOut, periodOpen := s.periodOpen }) h

theorem State.closePeriod_frame (empty : s.holdBuf = none) : s.Closed s.closePeriod := by
  rw [State.closePeriod, State.sendBlocks]
  exact s.processPeriod_frame.1.closed (State.closePeriod_sends empty).rest

/-! ### The bytes of the two blocks -/

theorem length_chainBlock (g : Nat) (f : FeedSet) (c : ChainState) (l : List Sample) :
    (chainBlock g f c l).1.length = l.length := by
  induction l generalizing c with
  | nil => rfl
  | cons d l ih => simp [chainBlock, ih]

/-- A feed places 40 samples (R1). -/
theorem length_placeOut (silent : Bool) (x : Screen) (f : Format) (k : Fin 16) :
    (placeOut silent (x.feedBlock f k).1).length = 40 := by
  unfold placeOut
  split
  · exact List.length_replicate
  · rw [Screen.feedBlock, length_chainBlock, decodeFeed, List.length_map, List.length_range]
    rfl

/-- Two and three flags as a byte. -/
theorem packBits_two (a b : Bool) : packBits [a, b] = BitVec.ofNat 8 ((if a then 1 else 0) + if b then 2 else 0) := by
  cases a <;> cases b <;> rfl

theorem packBits_three (a b c : Bool) :
    packBits [a, b, c] = BitVec.ofNat 8 ((if a then 1 else 0) + (if b then 2 else 0) + if c then 4 else 0) := by
  cases a <;> cases b <;> cases c <;> rfl

/-- A screen's status byte in the feed block (R21, R186). -/
theorem State.feedStatus_eq (s : State) (i : Fin 12) : s.feedStatus i = BitVec.ofNat 8
    ((if s.silentPeriod = true ∨ (s.screen i).mute.current = 0 then 1 else 0) +
      if (s.screen i).source = .safe then 2 else 0) := by
  rw [State.feedStatus, packBits_two]
  simp only [Bool.or_eq_true, decide_eq_true_eq]

/-- A screen's summary in the return block (R20, R186). -/
theorem State.summaryBytes_eq (s : State) (i : Fin 12) : s.summaryBytes i =
    [(s.screen i).tracker.state.code,
      BitVec.ofNat 8 ((if (s.screen i).source = .safe then 1 else 0) +
        (if ∃ id ∈ screenSources i ++ feedSources i, (s.source id).isUp = true then 2 else 0) +
        if (s.screen i).tracking then 4 else 0)] := by
  rw [State.summaryBytes, packBits_three, State.anyActive]
  simp only [decide_eq_true_eq, List.any_eq_true]

/-- The feed block has 23,060 bytes (R186). -/
theorem State.length_feedBlockBytes (h : ∀ i k, (s.feed i k).out.length = 40) : s.feedBlockBytes.length = 23060 := by
  have feed (i : Fin 12) (k : Fin 16) : (s.feed i k).outBytes.length = 120 := by
    rw [Feed.outBytes, length_flatMap_const _ (toBytesSigned 3) 3 fun _ => length_toBytes 3 _, h]
  have screen (i : Fin 12) : ((List.finRange 16).flatMap fun k => (s.feed i k).outBytes).length = 1920 := by
    rw [length_flatMap_const _ _ 120 (feed i), List.length_finRange]
  rw [State.feedBlockBytes, trunkBlock]
  simp only [List.length_append, length_flatMap_const _ _ 1920 screen, List.length_map, List.length_finRange, length_toBytes,
    length_crcBytes, List.length_cons, List.length_nil]

/-! ### The obligation -/

/-- The samples that a feed places in the period which ends. -/
def State.placed (s : State) (i : Fin 12) (k : Fin 16) : List Sample :=
  placeOut s.silentPeriod ((s.screen i).feedBlock (s.formatFor (s.screen i).handed.effectiveCode) k).1

/-- The feed block of a period, by the state that the period ends in (R21, R186). -/
theorem PeriodFrame.feedBlock {p : State} (frame : PeriodFrame s p)
    (out : ∀ i k, (p.feed i k).out = (s.placed i k).map Sample.value) : p.countPeriod.feedBlockBytes =
    trunkBlock [0xC3, 0x3C, 0xA5, 0x5A] (toBytes 2 s.outSeq.toNat ++ ((List.finRange 12).map s.feedStatus) ++
      (List.finRange 12).flatMap fun i => (List.finRange 16).flatMap fun k =>
        (s.placed i k).flatMap fun y => toBytesSigned 3 y.value) := by
  have bytes (i : Fin 12) (k : Fin 16) : (p.countPeriod.feed i k).outBytes =
      (s.placed i k).flatMap fun y => toBytesSigned 3 y.value := by
    rw [State.countPeriod_feed, Feed.outBytes, out, List.flatMap_map]
  have status : p.countPeriod.feedStatus = s.feedStatus := by
    funext i
    have screen := frame.screens i
    have silent : p.silentPeriod = s.silentPeriod := by
      rw [State.silentPeriod, frame.periodLocked, frame.periodStarting, State.silentPeriod]
    rw [State.feedStatus_eq, State.feedStatus_eq, State.countPeriod_silentPeriod, silent, State.countPeriod_screen, screen.mute,
      screen.source]
  rw [State.feedBlockBytes, State.countPeriod_outSeq, frame.outSeq, status]
  simp only [bytes]

/-- The return block of a period, by the state that the period ends in (R20, R186). -/
theorem PeriodFrame.returnBlock {p : State} (frame : PeriodFrame s p) (lane : LaneFill) : p.countPeriod.returnBlockBytes lane =
    trunkBlock [0x96, 0x69, 0x3A, 0xC5] (toBytes 2 s.outSeq.toNat ++ ((List.finRange 12).flatMap fun i =>
      [(s.screen i).tracker.state.code,
        BitVec.ofNat 8 ((if (s.screen i).source = .safe then 1 else 0) +
          (if ∃ id ∈ screenSources i ++ feedSources i, (p.countPeriod.source id).isUp = true then 2 else 0) +
          if (s.screen i).tracking then 4 else 0)]) ++
      toBytes 1 lane.placed.length ++ toBytes 1 (lane.first.getD 255) ++ lane.placed) := by
  have summary (i : Fin 12) := p.countPeriod.summaryBytes_eq i
  have tracker (i : Fin 12) := (frame.screens i).tracker
  have source (i : Fin 12) := (frame.screens i).source
  have tracking (i : Fin 12) := (frame.screens i).tracking
  rw [State.returnBlockBytes, State.countPeriod_outSeq, frame.outSeq]
  simp only [funext summary, State.countPeriod_screen, tracker, source, tracking]

theorem State.sendBlocks_eq (s : State) : s.sendBlocks = { s.fillLane.state with
    feedOut := s.feedBlockBytes, returnOut := s.returnBlockBytes s.fillLane, periodOpen := false } := by
  rw [State.sendBlocks]

/-- The blocks that stand in a state are none of its screens and sources. -/
theorem State.sent_screens {a b : List Byte} (h : t = { u with feedOut := a, returnOut := b, periodOpen := false }) :
    (∀ i, t.screen i = u.screen i) ∧ (∀ i k, t.feed i k = u.feed i k) ∧ ∀ id, t.source id = u.source id := by
  subst h
  exact ⟨fun _ => rfl, fun _ _ => rfl, fun id => by cases id <;> rfl⟩

/-- With PROGRAM IN LOCKED, BLOCK_PERIOD ends the period in progress and opens none (R1). -/
theorem State.exec_blockPeriod_of_locked (opened : s.periodOpen = true) (locked : s.prog.state = .locked) :
    exec .blockPeriod s = .next s.closePeriod := by
  have prog : s.closePeriod.prog.state = .locked := by rw [s.closePeriod_ports.1, locked]
  refine congrArg Host.Outcome.next ?_
  rw [State.blockPeriod, State.ensureOpen_of_open opened]
  exact if_pos prog

/-- Settles O11: the period's processing gives the chains and what the blocks are formed of, and filling the lane changes of
the screens no more than the deferral of a source. -/
theorem blockPeriodSends : Obligations.BlockPeriodSends := by
  intro s opened locked
  obtain ⟨frame, chains⟩ := s.processPeriod_chain
  have cues := s.processPeriod_frame.2
  have closed := State.closePeriod_frame (s := s)
  have sends := State.closePeriod_sends (s := s)
  have exec_eq := State.exec_blockPeriod_of_locked opened locked
  have trackers := s.closePeriod_tracker
  obtain ⟨window, -, -, -, seq, -⟩ := s.closePeriod_clock
  obtain ⟨prog, sense, -⟩ := s.closePeriod_ports
  obtain ⟨p, hp⟩ : ∃ p, s.processPeriod = p := ⟨_, rfl⟩
  have sent : s.closePeriod = p.countPeriod.sendBlocks := by rw [State.closePeriod, hp]
  rw [hp] at frame cues sends ⊢
  simp only [hp] at chains
  obtain ⟨t, ht⟩ : ∃ t, s.closePeriod = t := ⟨_, rfl⟩
  rw [State.sendBlocks_eq] at sent
  rw [ht] at closed exec_eq trackers window seq prog sense sent
  obtain ⟨fits, long, short⟩ := p.countPeriod.fillLane_first
  rw [State.countPeriod_tx, frame.tx] at long short
  obtain ⟨lane, hlane⟩ : ∃ l, p.countPeriod.fillLane = l := ⟨_, rfl⟩
  rw [hlane] at sent fits long short sends
  have out (i : Fin 12) (k : Fin 16) : (p.feed i k).out = (s.placed i k).map Sample.value := by
    obtain ⟨-, -, out, -⟩ := chains i k
    exact out
  intro silent chain samples feedBytes p' lane' returnBytes
  have feedOut : t.feedOut = trunkBlock [0xC3, 0x3C, 0xA5, 0x5A] feedBytes := by
    rw [sent]
    refine (frame.feedBlock out).trans ?_
    rw [funext s.feedStatus_eq]
    rfl
  have returnOut : t.returnOut = trunkBlock [0x96, 0x69, 0x3A, 0xC5] returnBytes := by
    rw [sent]
    subst hlane
    exact frame.returnBlock _
  have length : t.feedOut.length = 23060 := by
    rw [sent]
    refine State.length_feedBlockBytes fun i k => ?_
    rw [State.countPeriod_feed, out, List.length_map]
    exact length_placeOut ..
  refine ⟨t, exec_eq, ?_, seq, prog, sense, window, feedOut, length, returnOut, ?_, ?_, fun full => ?_,
    fun room => ?_, trackers, fun empty => ?_⟩
  · rw [sent]
  · exact (congrArg (fun l : LaneFill => l.placed.length ≤ 32) hlane).mpr fits
  · subst hlane
    rw [sent]
  · have filled : lane' = ⟨{ p.countPeriod with tx := s.tx.drop 32 }, s.tx.take 32, none⟩ := hlane.trans (long full)
    have left : t.tx = lane'.state.tx := by
      rw [sent]
      exact congrArg (fun l : LaneFill => l.state.tx) hlane.symm
    exact ⟨by rw [filled], by rw [filled], by rw [left, filled]⟩
  · obtain ⟨idle, begun⟩ := short room
    subst hlane
    dsimp only
    split
    next none =>
      rw [show lane' = _ from idle none]
      exact ⟨rfl, rfl⟩
    next some => exact begun some
  · obtain ⟨-, screens, feeds, sources⟩ := sends empty
    obtain ⟨screen_eq, feed_eq, source_eq⟩ := State.sent_screens sent
    refine ⟨?_, fun id => ?_, fun i => ?_, fun i k => ?_⟩
    · have left := (closed empty).eq
      rw [window, show t.periodOpen = false by rw [sent]] at left
      exact left
    · rw [source_eq]
      exact (Source.core_fields (sources id)).1
    · rw [screen_eq, ← cues i]
      have same := congrArg (fun x : Screen => x.cues) (screens i)
      exact same
    · obtain ⟨biquads, delay, out, meter⟩ := chains i k
      have feed := (feeds i k).eq
      rw [← feed_eq] at feed
      rw [feed]
      exact ⟨biquads, delay, out, meter⟩

end

end Sys2Proof.Machine

/-! The start-up scan: its pages, the classification of the slots, and the boot choices it ends in (R24, R63, R87, R88). -/

namespace Sys2Proof.Machine

set_option Elab.async false

section
variable {s t u : State} {i j : Fin 12} {c : Scan} {id : SlotId} {img : List Byte}

/-! ### A slot classified -/

/-- Whether a slot is classified VALID: its mark is CLOSED and its image passes the checks (R87). -/
abbrev State.Passes (s : State) (id : SlotId) (img : List Byte) : Prop := (s.slot id).mark = .closed ∧ imageOk id img = true

theorem State.classify_of_fails (h : ¬ s.Passes id img) :
    s.classify id img = s.clearSlot id (if (s.slot id).mark = .blank then .empty else .invalid) := by
  unfold State.classify
  split
  next blank => rw [if_pos blank]
  next opened => rw [if_neg (by rw [opened]; nofun)]
  next closed => rw [if_neg fun ok => h ⟨closed, ok⟩, if_neg (by rw [closed]; nofun)]

theorem State.classify_room {n : Fin 4} (h : s.Passes (.room i n) img) :
    s.classify (.room i n) img = s.validateSlot (.room i n) img := by
  obtain ⟨closed, ok⟩ := h
  unfold State.classify
  rw [closed]
  exact if_pos ok

theorem State.classify_format {f : Fin 15} (h : s.Passes (.format f) img) : s.classify (.format f) img =
    (s.validateSlot (.format f) img).setCache (formatCode f) (some (formatOf img)) := by
  obtain ⟨closed, ok⟩ := h
  unfold State.classify
  rw [closed]
  exact if_pos ok

/-- The state but for slots, cache and screens. -/
def State.Reslotted (s t : State) : Prop := { t with slots := s.slots, cache := s.cache, screens := s.screens } = s

theorem State.Reslotted.eq (h : s.Reslotted t) :
    t = { s with slots := t.slots, cache := t.cache, screens := t.screens } := by
  unfold State.Reslotted at h
  exact congrArg (fun v : State => { v with slots := t.slots, cache := t.cache, screens := t.screens }) h

/-- What a classification leaves: the slot's record, of the cache a VALID format's entry, and of the screens the rows. -/
structure State.Classifies (s : State) (id : SlotId) (img : List Byte) (t : State) : Prop where
  rest : s.Reslotted t
  passed : s.Passes id img →
    t.slot id = { s.slot id with state := .valid, boot := imageBoot id img, label := imageLabel id img }
  failed : ¬ s.Passes id img → t.slot id = { s.slot id with
    state := if (s.slot id).mark = .blank then .empty else .invalid, boot := false
    label := List.replicate (labelSize id.index.val) 0 }
  slots : ∀ a, a ≠ id → t.slot a = s.slot a
  cache : ∀ q : Fin 16, t.cache[q] = match id with
    | .format f => if s.Passes id img ∧ q = f.succ then some (formatOf img) else s.cache[q]
    | .room _ _ => s.cache[q]
  screens : ∀ j, t.screen j = { s.screen j with feeds := (t.screen j).feeds }

theorem State.classifies_classify (s : State) (id : SlotId) (img : List Byte) : s.Classifies id img (s.classify id img) := by
  by_cases passes : s.Passes id img
  · have valid := s.slot_onSlot_same id fun x =>
      { x with state := .valid, boot := imageBoot id img, label := imageLabel id img }
    have other (a : SlotId) (ne : a ≠ id) : (s.validateSlot id img).slot a = s.slot a := State.slot_onSlot_other _ _ _ _ ne
    cases id with
    | room i n =>
      rw [State.classify_room passes]
      exact ⟨rfl, fun _ => valid, fun fails => absurd passes fails, other, fun _ => rfl, fun _ => rfl⟩
    | format f =>
      rw [State.classify_format passes]
      have frame := (s.validateSlot (.format f) img).setCache_eq (formatCode f) (some (formatOf img))
      have cache := (s.validateSlot (.format f) img).cache_setCache (formatCode f) (e := some (formatOf img))
      have screens := (s.validateSlot (.format f) img).screen_setCache (formatCode f) (some (formatOf img))
      have slots (a : SlotId) : ((s.validateSlot (.format f) img).setCache (formatCode f) (some (formatOf img))).slot a =
          (s.validateSlot (.format f) img).slot a := by
        rw [frame]
        rfl
      refine ⟨?_, fun _ => (slots _).trans valid, fun fails => absurd passes fails, fun a ne => (slots a).trans (other a ne),
        fun q => ?_, fun j => ?_⟩
      · rw [frame]
        rfl
      · exact (cache q).trans (if_congr (and_iff_right passes).symm rfl rfl)
      · rw [screens j]
        rfl
  · rw [State.classify_of_fails passes]
    have cleared := fun a => s.slot_clearSlot id a (if (s.slot id).mark = .blank then .empty else .invalid)
    exact ⟨rfl, fun pass => absurd pass passes, fun _ => (cleared id).trans (if_pos rfl),
      fun a ne => (cleared a).trans (if_neg ne), fun q => by
        cases id with
        | room i n => rfl
        | format f => exact (if_neg fun both => passes both.1).symm, fun _ => rfl⟩

/-- A classification keeps every slot's mark. -/
theorem State.Classifies.mark (h : s.Classifies id img t) (a : SlotId) : (t.slot a).mark = (s.slot a).mark := by
  by_cases same : a = id
  · subst same
    by_cases passes : s.Passes a img
    · rw [h.passed passes]
    · rw [h.failed passes]
  · rw [h.slots a same]

/-! ### The boot loads -/

/-- A screen's boot choice reads the states and the boot flags of the slots alone. -/
theorem State.bootChoice_congr (h : ∀ a, (t.slot a).state = (s.slot a).state ∧ (t.slot a).boot = (s.slot a).boot) :
    t.bootChoice i = s.bootChoice i := by
  unfold State.bootChoice
  simp only [fun a => (h a).1, fun a => (h a).2]

/-- A screen with its boot load placed (R88). -/
def Screen.bootPlaced (x : Screen) : PresetRef → Screen
  | .slot n => { x with running := some ⟨.slot n, .loadWait⟩ }
  | .safe => x

theorem State.placeBootLoads_spec (s : State) : s.placeBootLoads = { s with screens := s.placeBootLoads.screens } ∧
    ∀ j, s.placeBootLoads.screen j = (s.screen j).bootPlaced (s.bootChoice j) := by
  refine ⟨State.Screened.eq (State.placeBootLoads_keeps s.keepsScreens_screened rfl), fun j => ?_⟩
  refine (State.forScreens_each (common := State.slots) (view := State.screen)
    (next := fun i slots x => x.bootPlaced (State.bootChoice { s with slots } i)) (fun i u => ?_) (fun i u j => ?_) s).2 j
  · split <;> rfl
  · have choice : u.bootChoice i = State.bootChoice { s with slots := u.slots } i := rfl
    rw [← choice]
    split
    next chosen =>
      rw [chosen, State.screen_onScreen]
      split
      next same => rw [same]; rfl
      · rfl
    next chosen =>
      rw [chosen]
      split
      next same => rw [same]; rfl
      · rfl

/-- A grant keeps what a screen's operation is for. -/
theorem State.ref_grant (s : State) (j : Fin 12) :
    (s.grant.screen j).running.map Operation.ref = (s.screen j).running.map Operation.ref := by
  have same {t : State} (h : t.screens = s.screens) : (t.screen j).running.map Operation.ref =
      (s.screen j).running.map Operation.ref := by
    unfold State.screen
    rw [h]
  rcases s.grant_cases with g | ⟨_, g | ⟨_, ⟨i, _, g⟩ | ⟨_, ⟨f, rest, _, g⟩ | ⟨_, ⟨w, _, g⟩ | ⟨_, _, g⟩⟩⟩⟩⟩ <;> rw [g]
  · exact same rfl
  · rw [State.screen_withPort, State.screen_onScreen]
    split
    next at_i =>
      rw [at_i, Screen.setStage, Option.map_map]
      rfl
    · rfl
  · exact same rfl
  · unfold State.grantEngine
    dsimp only
    split <;> exact same rfl
  · unfold State.grantCommit
    dsimp only
    split
    · split <;> exact same rfl
    · exact same rfl

/-- What the boot choices of the last slot's end leave (R88). -/
structure State.Boots (s t : State) : Prop where
  rest : t = { s with
    device := t.device, screens := t.screens, slots := t.slots, port := t.port, refreshes := t.refreshes, commit := t.commit }
  slots : ∀ a, t.slot a = { s.slot a with mark := (t.slot a).mark }
  choice : ∀ i, t.bootChoice i = s.bootChoice i
  loads : (∀ i, (s.screen i).running = none) → ∀ i n, s.bootChoice i = .slot n →
    (t.screen i).running.map Operation.ref = some (.slot n)
  idle : (∀ i, (s.screen i).running = none) → ∀ i, s.bootChoice i = .safe → (t.screen i).running = none
  first : (∀ i, (s.screen i).running = none) → s.port = none → s.scan = none → ∀ i, s.bootChoice i ≠ .safe →
    (∀ j, j < i → s.bootChoice j = .safe) → t.device = s.device ∧ t.port = some ⟨.load i, 0⟩
  ready : (∀ i, (s.screen i).running = none) → (∀ i, s.bootChoice i = .safe) →
    t.device = .running ∧ ∀ i, (t.screen i).mute.target = muteTarget .running (s.screen i)

theorem State.boots_placed (s : State) : s.Boots s.placeBootLoads.bootDone.grant := by
  obtain ⟨frame, placed⟩ := s.placeBootLoads_spec
  obtain ⟨v, hv⟩ : ∃ v, s.placeBootLoads = v := ⟨_, rfl⟩
  rw [hv] at frame placed ⊢
  have busy {j : Fin 12} (h : (v.screen j).running ≠ none) : v.bootDone = v := State.bootDone_of_busy h
  have free (h : ∀ j, (v.screen j).running = none) : v.bootDone = v.becomeRunning := State.bootDone_of_idle h
  have done := v.bootDone_screen
  obtain ⟨w, hw⟩ : ∃ w, v.bootDone = w := ⟨_, rfl⟩
  rw [hw] at busy free done ⊢
  have ended : w = { v with device := w.device, screens := w.screens } := (done 0).2.2
  have running (j : Fin 12) : (w.screen j).running = ((s.screen j).bootPlaced (s.bootChoice j)).running := by
    rw [(done j).1, ← placed j]
  have slot (a : SlotId) : w.slot a = s.slot a := by
    rw [ended, frame]
    rfl
  have granted := w.grant_eq
  have slots := fun a => (w.slot_grant a).1
  have refs := w.ref_grant
  have still (j : Fin 12) (h : (w.screen j).running = none) : w.grant.screen j = w.screen j :=
    State.screen_grant_of_idle (by rw [Screen.loadWaits, h])
  have load {i : Fin 12} (port : w.port = none) (scan : w.scan = none) (found : w.findScreen Screen.loadWaits = some i) :=
    State.grant_load port scan found
  obtain ⟨t, ht⟩ : ∃ t, w.grant = t := ⟨_, rfl⟩
  rw [ht] at granted slots refs still load ⊢
  have rest : t = { s with
      device := t.device, screens := t.screens, slots := t.slots, port := t.port, refreshes := t.refreshes
      commit := t.commit } := by
    rw [granted, ended, frame]
  have quiet (idle : ∀ i, (s.screen i).running = none) (i : Fin 12) (safe : s.bootChoice i = .safe) :
      (w.screen i).running = none := by
    rw [running i, safe]
    exact idle i
  refine ⟨rest, fun a => ?_, fun i => State.bootChoice_congr fun a => ?_, fun idle i n chosen => ?_, fun idle i safe => ?_,
    fun idle port scan i chosen before => ?_, fun idle safe => ?_⟩
  · rw [← slot a]
    exact slots a
  · rw [slots a, slot a]
    exact ⟨rfl, rfl⟩
  · rw [refs i, running i, chosen]
    rfl
  · rw [still i (quiet idle i safe)]
    exact quiet idle i safe
  · cases slot_chosen : s.bootChoice i with
    | safe => exact absurd slot_chosen chosen
    | slot n =>
      have waits : (w.screen i).running = some ⟨.slot n, .loadWait⟩ := by rw [running i, slot_chosen]; rfl
      have same : w = v := busy (j := i) (by rw [placed i, slot_chosen]; nofun)
      have found : w.findScreen Screen.loadWaits = some i := by
        refine find?_finRange ?_ fun j lt => ?_
        · rw [Screen.loadWaits, waits]
          rfl
        · rw [Screen.loadWaits, quiet idle j (before j lt)]
          nofun
      rw [load (by rw [ended, frame]; exact port) (by rw [ended, frame]; exact scan) found]
      refine ⟨?_, rfl⟩
      show w.device = s.device
      rw [same, frame]
  · have running_now : w = v.becomeRunning := free fun j => by
      rw [placed j, safe j]
      exact idle j
    obtain ⟨becomes, screens⟩ := v.becomeRunning_spec
    rw [← running_now] at becomes screens
    refine ⟨?_, fun i => ?_⟩
    · rw [granted]
      show w.device = .running
      rw [becomes]
    · rw [still i (quiet idle i (safe i)), screens i, Screen.recompute_target, placed i, safe i]
      rfl

/-! ### A page read -/

theorem State.endScanPage_next (more : c.page + 1 < (scanSlot c.place).pages) (w : Upset) : s.endScanPage c w = { s with
    port := some ⟨.scan, 0⟩, scan := some ⟨c.place, c.page + 1⟩
    scanBuf := s.scanBuf ++ delivered w (s.storedPage (scanSlot c.place) c.page) } := by
  unfold State.endScanPage
  dsimp only
  exact (if_pos more).trans (State.grant_scan (s := { s.freePort with
    scan := some ⟨c.place, c.page + 1⟩
    scanBuf := s.scanBuf ++ delivered w (s.storedPage (scanSlot c.place) c.page) }) rfl nofun)

theorem State.endScanPage_last (last : (scanSlot c.place).pages ≤ c.page + 1) (w : Upset) : s.endScanPage c w =
    (s.freePort.classify (scanSlot c.place) ((s.scanBuf ++ delivered w (s.storedPage (scanSlot c.place) c.page)).take
      (scanSlot c.place).imageSize)).scanNext c.place := by
  unfold State.endScanPage
  dsimp only
  rw [if_neg (Nat.not_lt.2 last)]

theorem State.endUnit_scan {age : Nat} (port : s.port = some ⟨.scan, age⟩) (scan : s.scan = some c) (w : Upset) :
    s.endUnit w = s.endScanPage c w := by
  unfold State.endUnit
  rw [port, scan]

/-! ### A page that the opening of a period ends -/

/-- The port at work on a page of the scan, with no message held. -/
structure State.Scans (p : PortUnit) (c : Scan) (b : List Byte) (m : Memory) (s : State) : Prop where
  port : s.port = some p
  scan : s.scan = some c
  scanBuf : s.scanBuf = b
  array : s.array = m
  holdBuf : s.holdBuf = none

theorem keepsTracker_scans (p : PortUnit) (c : Scan) (b : List Byte) (m : Memory) : KeepsTracker (State.Scans p c b m) where
  screen := fun _ _ _ _ ⟨h1, h2, h3, h4, h5⟩ => ⟨h1, h2, h3, h4, h5⟩
  track := fun _ _ _ _ ⟨h1, h2, h3, h4, h5⟩ => ⟨h1, h2, h3, h4, h5⟩

theorem keepsAlarms_scans (p : PortUnit) (c : Scan) (b : List Byte) (m : Memory) : KeepsAlarms (State.Scans p c b m) where
  screen := fun _ _ _ _ ⟨h1, h2, h3, h4, h5⟩ => ⟨h1, h2, h3, h4, h5⟩
  source := fun _ id _ _ ⟨h1, h2, h3, h4, h5⟩ => by cases id <;> exact ⟨h1, h2, h3, h4, h5⟩
  defer := fun _ id _ _ ⟨h1, h2, h3, h4, h5⟩ => by cases id <;> exact ⟨h1, h2, h3, h4, h5⟩
  alarmUpdate := fun _ _ _ ⟨h1, h2, h3, h4, h5⟩ => ⟨h1, h2, h3, h4, h5⟩
  alarmAdd := fun _ _ _ _ _ ⟨h1, h2, h3, h4, h5⟩ => ⟨h1, h2, h3, h4, h5⟩

theorem keepsLines_scans (p : PortUnit) (c : Scan) (b : List Byte) (m : Memory) : KeepsLines (State.Scans p c b m) :=
  ⟨fun _ _ ⟨h1, h2, h3, h4, h5⟩ => ⟨h1, h2, h3, h4, h5⟩⟩

/-- A block boundary of a screen grants nothing while the port is at work. -/
theorem State.screenBoundary_keeps_of_busy {P : State → Prop} (keeps : KeepsScreens P) (busy : ∀ u, P u → u.port ≠ none)
    (h : P s) : P (s.screenBoundary i) := by
  have begun {u : State} (r : PresetRef) (hu : P u) : P (u.beginOp i r) := by
    cases r with
    | slot n =>
      rw [State.beginOp_slot_of_port n (busy u hu)]
      exact State.onScreen_keeps (f := fun x => { x with running := some ⟨.slot n, .loadWait⟩ }) keeps hu
    | safe => exact State.enterFadeOut_keeps keeps (State.onScreen_keeps keeps hu)
  have stepped : P (s.onScreen i fun x => x.rampStep.indicate) := by
    refine State.onScreen_keeps keeps h fun x => ?_
    unfold Screen.indicate
    split <;> exact ⟨rfl, rfl, rfl, rfl, rfl, rfl, rfl, rfl, rfl, rfl, rfl, rfl, fun _ => rfl, fun _ => rfl, fun _ => rfl⟩
  unfold State.screenBoundary
  generalize (s.onScreen i fun x => x.rampStep.indicate) = u at stepped
  unfold State.fadeInStep State.takeSwapEnd
  split
  · have counted : P (u.onScreen i fun x => { x with fadeIn := x.fadeIn + 1 }) := State.onScreen_keeps keeps stepped
    generalize (u.onScreen i fun x => { x with fadeIn := x.fadeIn + 1 }) = v at counted
    have cleared : P ((v.onScreen i fun x =>
        { x with running := none, phase := .none, fadeIn := 0, waiting := none }).recomputeMute i) :=
      State.recomputeMute_keeps keeps (State.onScreen_keeps keeps counted)
    split
    · unfold State.endSwap
      dsimp only
      split
      · exact begun _ cleared
      · exact cleared
    · exact counted
  · exact stepped

/-- A byte sequence with no upset is delivered as it is stored. -/
theorem delivered_nil (l : List Byte) : delivered [] l = l := by
  refine List.ext_getElem (length_delivered [] l) fun n _ lt => ?_
  simp [delivered, byteAt, lt]

/-- The opening of a period ends a page of the scan that has had its period, and grants the next (R75). -/
theorem State.settle_scans {age : Nat} {b : List Byte} {m : Memory} (h : State.Scans ⟨.scan, age⟩ c b m s)
    (lasted : 1 ≤ age) (more : c.page + 1 < (scanSlot c.place).pages) : State.Scans ⟨.scan, 0⟩ ⟨c.place, c.page + 1⟩
      (b ++ s.storedPage (scanSlot c.place) c.page) m s.settle := by
  have before : State.Scans ⟨.scan, age⟩ c b m ((if s.windowDue then s.endWindow else s).forScreens
      fun i t => t.takeMuteZero i) := by
    refine State.forScreens_keeps (fun _ _ hu => State.takeMuteZero_keeps (keepsAlarms_scans _ _ _ _) hu) ?_
    obtain ⟨h1, h2, h3, h4, h5⟩ := h
    split <;> exact ⟨h1, h2, h3, h4, h5⟩
  unfold State.settle
  dsimp only
  generalize ((if s.windowDue then s.endWindow else s).forScreens fun i t => t.takeMuteZero i) = v at before
  obtain ⟨port, scan, buf, array, holdBuf⟩ := before
  have page : v.storedPage (scanSlot c.place) c.page = s.storedPage (scanSlot c.place) c.page := by
    unfold State.storedPage State.arrayBytes
    rw [array, h.array]
  have ends : v.overdueUnit = { v with
      port := some ⟨.scan, 0⟩, scan := some ⟨c.place, c.page + 1⟩
      scanBuf := b ++ s.storedPage (scanSlot c.place) c.page } := by
    unfold State.overdueUnit
    rw [port]
    refine (if_pos lasted).trans ?_
    rw [State.endUnit_scan port scan, State.endScanPage_next more, delivered_nil, page, buf]
  have scans : State.Scans ⟨.scan, 0⟩ ⟨c.place, c.page + 1⟩ (b ++ s.storedPage (scanSlot c.place) c.page) m
      v.overdueUnit := by
    rw [ends]
    exact ⟨rfl, rfl, rfl, array, holdBuf⟩
  rw [State.takeHoldBuffer_none _ scans.holdBuf]
  exact scans

/-- The page that a free-running period opens with has the period as its own (R75). -/
theorem State.openFree_scans {age : Nat} {b : List Byte} {m : Memory} (h : State.Scans ⟨.scan, age⟩ c b m s)
    (lasted : 1 ≤ age) (more : c.page + 1 < (scanSlot c.place).pages) : State.Scans ⟨.scan, 1⟩ ⟨c.place, c.page + 1⟩
      (b ++ s.storedPage (scanSlot c.place) c.page) m s.openFree := by
  have settled := State.settle_scans h lasted more
  unfold State.openFree State.openPeriod
  dsimp only
  generalize s.settle = v at settled
  refine State.absentPeriod_keeps (keepsTracker_scans _ _ _ _)
    (State.forLines_keeps (fun _ _ hu => State.lineBoundary_keeps (keepsLines_scans _ _ _ _) hu) ?_)
  have bounded : State.Scans ⟨.scan, 0⟩ ⟨c.place, c.page + 1⟩ (b ++ s.storedPage (scanSlot c.place) c.page) m
      ((v.enterPeriod none false).forScreens fun i t => t.screenBoundary i) := by
    refine State.forScreens_keeps (fun i u hu => State.screenBoundary_keeps_of_busy (keepsAlarms_scans _ _ _ _).toKeepsScreens
      (fun w hw => ?_) hu) ?_
    · rw [hw.port]
      nofun
    · obtain ⟨h1, h2, h3, h4, h5⟩ := settled
      exact ⟨h1, h2, h3, h4, h5⟩
  generalize ((v.enterPeriod none false).forScreens fun i t => t.screenBoundary i) = w at bounded
  obtain ⟨port, scan, buf, array, holdBuf⟩ := bounded
  refine ⟨?_, scan, buf, array, holdBuf⟩
  show w.port.map _ = _
  rw [port]
  rfl

/-- The end of a period, with no message held, leaves the port and the scan. -/
theorem State.Closed.scans {age : Nat} (h : s.Closed t) (empty : s.holdBuf = none) (port : s.port = some ⟨.scan, age⟩)
    (scan : s.scan = some c) : State.Scans ⟨.scan, age⟩ c s.scanBuf s.array t := by
  rw [h.eq]
  exact ⟨port, scan, rfl, rfl, empty⟩

theorem State.blockPeriod_scans {age : Nat} (opened : s.periodOpen = true) (unlocked : s.prog.state ≠ .locked)
    (empty : s.holdBuf = none) (port : s.port = some ⟨.scan, age⟩) (lasted : 1 ≤ age) (scan : s.scan = some c)
    (more : c.page + 1 < (scanSlot c.place).pages) :
    State.Scans ⟨.scan, 1⟩ ⟨c.place, c.page + 1⟩ (s.scanBuf ++ s.storedPage (scanSlot c.place) c.page) s.array
      s.blockPeriod := by
  rw [State.blockPeriod_of_open opened unlocked]
  have scans := (State.closePeriod_frame empty).scans empty port scan
  have page : s.closePeriod.storedPage (scanSlot c.place) c.page = s.storedPage (scanSlot c.place) c.page := by
    rw [State.storedPage, State.arrayBytes, scans.array]
    rfl
  rw [← page]
  exact State.openFree_scans scans lasted more

/-! ### After a slot's last page -/

theorem State.scanNext_more {p : Fin 63} (port : s.port = none) (h : p.val + 1 < 63) : s.scanNext p =
    { s with port := some ⟨.scan, 0⟩, scan := some ⟨⟨p.val + 1, h⟩, 0⟩, scanBuf := [] } := by
  unfold State.scanNext
  exact (dif_pos h).trans
    (State.grant_scan (s := { s with scan := some ⟨⟨p.val + 1, h⟩, 0⟩, scanBuf := [] }) port nofun)

theorem State.scanNext_done {p : Fin 63} (h : 63 ≤ p.val + 1) :
    State.Boots { s with scan := none, scanBuf := [] } (s.scanNext p) := by
  unfold State.scanNext
  rw [dif_neg (Nat.not_lt.2 h)]
  exact State.boots_placed _

/-- Going on from a slot keeps the slots' records but for a mark, and the cache. -/
theorem State.scanNext_kept (p : Fin 63) (port : s.port = none) : (∀ a, (s.scanNext p).slot a =
    { s.slot a with mark := ((s.scanNext p).slot a).mark }) ∧ (s.scanNext p).cache = s.cache ∧
      (s.scanNext p).scanBuf = [] := by
  rcases Nat.lt_or_ge (p.val + 1) 63 with more | done
  · rw [State.scanNext_more port more]
    exact ⟨fun _ => rfl, rfl, rfl⟩
  · obtain ⟨rest, slots, -⟩ := State.scanNext_done (s := s) done
    exact ⟨slots, by rw [rest], by rw [rest]⟩

/-- Settles O28: a page before the last takes the port for the next, in its own command or as a period opens; the last one
classifies the slot and goes on to the next slot or to the boot choices. -/
theorem scanReadsPages : Obligations.ScanReadsPages := by
  refine ⟨rfl, rfl, fun s c age opened unlocked empty port lasted scan more => ?_, fun s c w age port lasted scan => ?_⟩
  · obtain ⟨taken, next, buf, -, -⟩ := State.blockPeriod_scans opened unlocked empty port lasted scan more
    exact ⟨s.blockPeriod, rfl, taken, next, buf⟩
  have ended : exec (.scanPageRead w) s = .next (s.endScanPage c w) :=
    congrArg Host.Outcome.next
      ((State.endUnitOf_due (p := PortWork.isScan) port lasted rfl w).trans (State.endUnit_scan port scan w))
  refine ⟨fun more => by rw [ended, State.endScanPage_next more], fun last => ?_⟩
  intro id img valid
  have classified := s.freePort.classifies_classify id img
  have last_eq : s.endScanPage c w = (s.freePort.classify id img).scanNext c.place := State.endScanPage_last last w
  obtain ⟨v, hv⟩ : ∃ v, s.freePort.classify id img = v := ⟨_, rfl⟩
  rw [hv] at classified last_eq
  have marks (a : SlotId) : (v.slot a).mark = (s.slot a).mark := classified.mark a
  obtain ⟨rest, passed, failed, slots, cache, screens⟩ := classified
  have rest := rest.eq
  have free : v.port = none := by rw [rest]; rfl
  obtain ⟨kept, kept_cache, buf⟩ := v.scanNext_kept c.place free
  have next (more : c.place.val + 1 < 63) := State.scanNext_more free more
  have done (last : 63 ≤ c.place.val + 1) := State.scanNext_done (s := v) last
  rw [ended, last_eq]
  obtain ⟨t, ht⟩ : ∃ t, v.scanNext c.place = t := ⟨_, rfl⟩
  rw [ht] at kept kept_cache buf next done ⊢
  refine ⟨t, rfl, fun ok => ?_, fun bad => ?_, fun j ne => ?_, fun q => ?_, buf, fun more => ?_, fun last => ?_⟩
  · rw [kept id, passed ok]
    exact ⟨rfl, rfl, rfl⟩
  · rw [kept id, failed bad]
    exact ⟨rfl, rfl, fun b mem => List.eq_of_mem_replicate mem⟩
  · rw [kept j, slots j ne]
    rfl
  · rw [kept_cache]
    exact cache q
  · rw [next more]
    exact ⟨rfl, marks, by rw [rest]; rfl⟩
  · obtain ⟨frame, -, choice, loads, idle, first, ready⟩ := done last
    have quiet (h : ∀ i, (s.screen i).running = none) (i : Fin 12) : (v.screen i).running = none := by
      rw [screens i]
      exact h i
    refine ⟨by rw [frame], by rw [frame, rest]; rfl, by rw [frame, rest]; rfl, fun h =>
      ⟨fun i n chosen => ?_, fun i safe => ?_, fun i chosen before => ?_, fun safe => ?_⟩⟩
    · exact loads (quiet h) i n ((choice i).symm.trans chosen)
    · exact idle (quiet h) i ((choice i).symm.trans safe)
    · obtain ⟨device, taken⟩ := first (quiet h) free rfl i (fun safe => chosen ((choice i).trans safe))
        fun j lt => (choice j).symm.trans (before j lt)
      exact ⟨device.trans (by rw [rest]; rfl), taken⟩
    · obtain ⟨running, targets⟩ := ready (quiet h) fun i => (choice i).symm.trans (safe i)
      refine ⟨running, fun i => ?_⟩
      have same : State.screen { v with scan := none, scanBuf := [] } i = v.screen i := rfl
      rw [targets i, same, screens i, muteTarget_eq]
      exact if_congr (or_iff_right nofun) rfl rfl

end

end Sys2Proof.Machine
